-- ==== Sys2Proof/Word.lean ====
section
/-!
DEFINITION. The units the engine moves and stores: a byte, a 32-bit channel word, a 16-byte block and the 32-byte
key register (spec/00_scope.md R10, R11, R16; spec/20_memory.md R61).
-/

namespace Sys2Proof

/-- A byte, the unit of DIN and DOUT (R16, R61). -/
abbrev Byte := BitVec 8

/-- A 32-bit word, the unit of CMD and RSP (R11, R61). -/
abbrev Word := BitVec 32

/-- A 16-byte block, element 0 the first byte (R10, R15). -/
abbrev Block := Vector Byte 16

/-- The 32 bytes of the key register (R34). -/
abbrev KeyReg := Vector Byte 32

/-- `zeros(n)` of R16, as a byte string. -/
abbrev zeros (n : Nat) : List Byte := List.replicate n 0

/-- The block `zeros(16)`. -/
abbrev zeroBlock : Block := Vector.replicate 16 0

/-- The key register `zeros(32)`. -/
abbrev zeroKey : KeyReg := Vector.replicate 32 0

end Sys2Proof
end

