-- ==== Sys2Proof/Syntax.lean ====
section
/-!
DEFINITION. The commands of `AESCTR-CMD v1`: one constructor for each row of spec/opcode_table.json
(spec/30_encoding.md R86, R96).
-/

namespace Sys2Proof

/-- A command, with its operands as the byte counts the assembler syntax writes (R85, R96). -/
inductive Instr where
  /-- CREATE klen, ivlen: validate a key and an IV and construct both sessions (R170). -/
  | create (klen ivlen : Nat)
  /-- ENC len: encrypt through the encrypt session (R148). -/
  | enc (len : Nat)
  /-- DEC len: decrypt through the decrypt session (R149). -/
  | dec (len : Nat)
  /-- INCR: increment a counter block on its own (R124). -/
  | incr
  /-- STATUS: report HV, VAR and FLT (R176). -/
  | status
deriving DecidableEq, Repr

end Sys2Proof
end

