-- ==== Sys2Proof/WellFormed.lean ====
section
/-!
DEFINITION. Which commands can be written as a command word: the operand ranges an assembler checks
(spec/30_encoding.md R96; the field widths are R11's).
-/

namespace Sys2Proof

/-- An operand outside its range (R96). -/
inductive OperandError where
  /-- KLEN above 255. -/
  | klenRange
  /-- IVLEN above 255. -/
  | ivlenRange
  /-- LEN above 2^24 − 1. -/
  | lenRange
deriving DecidableEq, Repr

/-- The operands of a command that an assembler rejects (R96). -/
def Instr.operandErrors : Instr → List OperandError
  | .create klen ivlen =>
      (if klen < 2 ^ 8 then [] else [.klenRange]) ++ (if ivlen < 2 ^ 8 then [] else [.ivlenRange])
  | .enc len => if len < 2 ^ 24 then [] else [.lenRange]
  | .dec len => if len < 2 ^ 24 then [] else [.lenRange]
  | .incr => []
  | .status => []

/-- Every operand fits its field. -/
def Instr.wellFormed (i : Instr) : Bool := i.operandErrors.isEmpty

end Sys2Proof
end

