-- ==== Sys2Proof/Decode.lean ====
section
/-!
DEFINITION. The command word: its fields, the opcode map, the decoder, the declared payload, and the encoder
(spec/30_encoding.md R80 to R92, R96, R99).
-/

namespace Sys2Proof

/-! ### Fields -/

/-- OPC = W[31:28] (R80). -/
def wordOpc (w : Word) : BitVec 4 := w.extractLsb' 28 4

/-- RSV of format C, W[27:16] (R82). -/
def wordRsvC (w : Word) : BitVec 12 := w.extractLsb' 16 12

/-- RSV of format P, W[27:25] (R83). -/
def wordRsvP (w : Word) : BitVec 3 := w.extractLsb' 25 3

/-- RSV of format N, W[27:0] (R84). -/
def wordRsvN (w : Word) : BitVec 28 := w.extractLsb' 0 28

/-- KLEN = W[15:8], zero-extended (R85). -/
def wordKlen (w : Word) : Nat := (w.extractLsb' 8 8).toNat

/-- IVLEN = W[7:0], zero-extended (R85). -/
def wordIvlen (w : Word) : Nat := (w.extractLsb' 0 8).toNat

/-- DIR = W[24] (R83, R85). -/
def wordDir (w : Word) : BitVec 1 := w.extractLsb' 24 1

/-- LEN = W[23:0], zero-extended (R85). -/
def wordLen (w : Word) : Nat := (w.extractLsb' 0 24).toNat

/-- W[31:24], what ILLEGAL_COMMAND reports (R94). -/
def wordTop (w : Word) : Byte := w.extractLsb' 24 8

/-! ### The opcode map -/

/-- A row of the opcode map (R86). -/
structure OpcodeRow where
  mnemonic : String
  pattern : Word
  mask : Word
deriving DecidableEq, Repr

/-- The five legal bit patterns (R86). -/
def opcodeMap : List OpcodeRow :=
  [ { mnemonic := "CREATE", pattern := 0x10000000, mask := 0xFFFF0000 },
    { mnemonic := "ENC", pattern := 0x20000000, mask := 0xFF000000 },
    { mnemonic := "DEC", pattern := 0x21000000, mask := 0xFF000000 },
    { mnemonic := "INCR", pattern := 0x30000000, mask := 0xFFFFFFFF },
    { mnemonic := "STATUS", pattern := 0x40000000, mask := 0xFFFFFFFF } ]

/-- `(W & mask) = match` (R87). -/
def OpcodeRow.fits (r : OpcodeRow) (w : Word) : Bool := w &&& r.mask == r.pattern

/-- `Legal(W)`: some row of the opcode map fits (R87). -/
def legal (w : Word) : Bool := opcodeMap.any fun r => r.fits w

/-! ### Decoding -/

/-- Why a word is illegal (R88, R90). -/
inductive IllegalWord where
  /-- OPC is 0x0 or 0x5 to 0xF (R90). -/
  | reservedOpcode
  /-- A reserved bit of the word's format is set (R88). -/
  | reservedBits
deriving DecidableEq, Repr

/-- Format C (R82). -/
def decodeC (w : Word) : Except IllegalWord Instr :=
  if wordRsvC w = 0 then .ok (.create (wordKlen w) (wordIvlen w)) else .error .reservedBits

/-- Format P (R83). -/
def decodeP (w : Word) : Except IllegalWord Instr :=
  if wordRsvP w = 0 then
    if wordDir w = 0 then .ok (.enc (wordLen w)) else .ok (.dec (wordLen w))
  else .error .reservedBits

/-- Format N (R84), for the command its opcode names. -/
def decodeN (i : Instr) (w : Word) : Except IllegalWord Instr :=
  if wordRsvN w = 0 then .ok i else .error .reservedBits

/-- The command a word stands for, or the reason it is illegal (R81, R87, R88, R90). -/
def decode (w : Word) : Except IllegalWord Instr :=
  if wordOpc w = 0x1 then decodeC w
  else if wordOpc w = 0x2 then decodeP w
  else if wordOpc w = 0x3 then decodeN .incr w
  else if wordOpc w = 0x4 then decodeN .status w
  else .error .reservedOpcode

/-- DECL of a legal command: how many DIN bytes it pops (R91). -/
def Instr.decl : Instr → Nat
  | .create klen ivlen => klen + ivlen
  | .enc len => len
  | .dec len => len
  | .incr => 16
  | .status => 0

/-- `DECL(W)`: 0 for an illegal word (R91). -/
def declWord (w : Word) : Nat :=
  match decode w with
  | .ok i => i.decl
  | .error _ => 0

/-- The command the decoder reads from a word numbered as spec/opcode_table.json numbers its bits. A command is one
32-bit word (R80), so a longer number is no command word. -/
def decodeTableWord (nbits w : Nat) : Option Instr :=
  if nbits ≤ 32 ∧ w < 2 ^ 32 then (decode (BitVec.ofNat 32 w)).toOption else none

/-! ### Encoding -/

/-- The word an assembler writes for a command (R82 to R84, R96). -/
def encode : Instr → Word
  | .create klen ivlen => 0x1#4 ++ 0#12 ++ BitVec.ofNat 8 klen ++ BitVec.ofNat 8 ivlen
  | .enc len => 0x2#4 ++ 0#3 ++ 0#1 ++ BitVec.ofNat 24 len
  | .dec len => 0x2#4 ++ 0#3 ++ 1#1 ++ BitVec.ofNat 24 len
  | .incr => 0x3#4 ++ 0#28
  | .status => 0x4#4 ++ 0#28

end Sys2Proof
end

