-- ==== Sys2Proof/Config.lean ====
section
/-!
DEFINITION. What the spec leaves to the engine's surroundings: the block cipher BLOCK_ENCRYPT and the draw PRIM_FAILS
(spec/00_scope.md R14, R15; spec/93_implementation_defined.md U1, U2). Both are constants with no body, so a proof
can use nothing about them (log entries 1 and 2).
-/

namespace Sys2Proof

/-- The closed enumeration of cipher variants (R3, R112). -/
inductive Variant where
  /-- Variant128, a 16-byte key. -/
  | v128
  /-- Variant256, a 32-byte key. -/
  | v256
deriving DecidableEq, Repr

/-- The attached block-cipher primitive as the engine sees it (R137, R206): the function it computes and whether an
invocation fails. The meanings are written over any primitive; the machine runs them with `Config.primitive`. -/
structure Primitive where
  /-- BLOCK_ENCRYPT: variant, KEYBYTES, block presented, block answered (R15). -/
  encrypt : Variant → List Byte → Block → Block
  /-- PRIM_FAILS: whether invocation number `k` of the draw stream `stream` fails (R14). -/
  fails : Nat → Nat → Bool

/-- BLOCK_ENCRYPT (R15), an open total function of its three arguments alone (log entry 1). -/
opaque Config.blockEncrypt : Variant → List Byte → Block → Block

/-- PRIM_FAILS (R14), a free Boolean for every invocation (log entry 2). The first argument is the draw stream of an
engine instance, the second the number of invocations made before. -/
opaque Config.primFails : Nat → Nat → Bool

/-- The primitive attached to the engine. -/
def Config.primitive : Primitive where
  encrypt := Config.blockEncrypt
  fails := Config.primFails

end Sys2Proof
end

