-- ==== Sys2Proof/Machine/State.lean ====
section
/-!
DEFINITION. The engine's state as plain data (spec/10_state.md R30 to R50, spec/20_memory.md R60), the two reasons a
step could stop, and the state after reset (R50, R220).
-/

namespace Sys2Proof.Machine

/-- A direction: the DIR field, and the session bank it selects (R35, R83). -/
inductive Dir where
  /-- DIR = 0, the encrypt session SE. -/
  | enc
  /-- DIR = 1, the decrypt session SD. -/
  | dec
deriving DecidableEq, Repr

/-- A session bank (R35). -/
structure Session where
  /-- S.CTR, the counter block as an unsigned integer (R36). -/
  ctr : BitVec 128
  /-- S.KS, the most recently generated key-stream block (R37). -/
  ks : Block
  /-- S.OFF, the read offset into S.KS, 0 to 16; 16 means the residual is empty (R38). -/
  off : Fin 17
deriving DecidableEq, Repr

/-- Everything the engine holds (R30, R47), and two counters of the model's own that say which answer of PRIM_FAILS
comes next (log entry 2). STAT is no field: it is computed (R46). -/
structure State where
  /-- HV, handle valid (R31). -/
  hv : Bool
  /-- VAR, the handle's cipher variant (R32). -/
  var : Variant
  /-- FLT, the sticky fault bit (R33). -/
  flt : Bool
  /-- KEY, the key bytes of the handle (R34). -/
  key : KeyReg
  /-- SE, the encrypt session (R35). -/
  se : Session
  /-- SD, the decrypt session (R35). -/
  sd : Session
  /-- CMD, oldest word first (R60). -/
  cmd : List Word
  /-- DIN, oldest byte first (R60). -/
  din : List Byte
  /-- DOUT, oldest byte first (R60). -/
  dout : List Byte
  /-- RSP, oldest word first (R60). -/
  rsp : List Word
  /-- The model's own: which draw stream of PRIM_FAILS this engine reads (log entry 2). -/
  stream : Nat
  /-- The model's own: how many answers of PRIM_FAILS have been drawn (log entry 2). -/
  drawn : Nat
deriving DecidableEq, Repr

/-- Why a step could fault. No command of the spec faults: errors are response words (R190, R199). -/
inductive Fault where
  /-- Raised by `popPayload` when a meaning is run on a state whose DIN holds fewer bytes than the command declares.
  The spec's engine waits there (R78), and so does `step`, which never runs a meaning in that case. Safe: only a
  direct call of `exec` outside the enabling condition meets it. -/
  | payloadIncomplete
deriving DecidableEq, Repr

/-- Why a step could be refused. -/
inductive Refusal where
  /-- Raised by an arm of `exec` whose instruction has no meaning yet. No arm is left so. Safe: nothing runs. -/
  | notModelled (mnemonic : String)
deriving DecidableEq, Repr

/-- A session bank after reset (R50). -/
def Session.reset : Session where
  ctr := 0
  ks := zeroBlock
  off := 16

/-- The engine right after reset (R50, R220). -/
def State.reset : State where
  hv := false
  var := .v128
  flt := false
  key := zeroKey
  se := Session.reset
  sd := Session.reset
  cmd := []
  din := []
  dout := []
  rsp := []
  stream := 0
  drawn := 0

end Sys2Proof.Machine
end

