-- ==== Sys2Proof/Machine/Operands.lean ====
section
/-!
DEFINITION. Byte strings and what a command reads from its payload: the big-endian conversions (spec/00_scope.md R18,
spec/20_memory.md R62, R63), the key and IV slices (spec/44_handle.md R170), and the key register's two views
(spec/10_state.md R34).
-/

namespace Sys2Proof.Machine

/-- A byte string read as one big-endian number, byte 0 the most significant (R18). -/
def beNat (b : List Byte) : Nat := b.foldl (fun acc x => acc * 2 ^ 8 + x.toNat) 0

/-- `BE128(b)` of a 16-byte string (R18). -/
def be128 (b : List Byte) : BitVec 128 := BitVec.ofNat 128 (beNat b)

/-- `BYTES128(v)`: byte i is v[127−8i : 120−8i] (R18). -/
def bytes128 (v : BitVec 128) : Block := Vector.ofFn fun i : Fin 16 => v.extractLsb' (120 - 8 * i.val) 8

/-- `key = p[0..KLEN)` (R170). -/
def keySlice (klen : Nat) (p : List Byte) : List Byte := p.take klen

/-- `iv = p[KLEN..KLEN+IVLEN)` (R170). -/
def ivSlice (klen ivlen : Nat) (p : List Byte) : List Byte := (p.drop klen).take ivlen

/-- `key ++ zeros(32 − KLEN)` as the key register holds it (R34, R170). -/
def keyRegister (key : List Byte) : KeyReg := Vector.ofFn fun i : Fin 32 => key.getD i.val 0

/-- KEYBYTES, what the primitive is given of KEY (R34, R113). -/
def keyBytes (v : Variant) (key : KeyReg) : List Byte :=
  match v with
  | .v128 => key.toList.take 16
  | .v256 => key.toList

/-- The bank a direction selects (R35, R150). -/
def State.session (s : State) (d : Dir) : Session :=
  match d with
  | .enc => s.se
  | .dec => s.sd

/-- Write the bank a direction selects, and only it (R43, R150). -/
def State.setSession (s : State) (d : Dir) (S : Session) : State :=
  match d with
  | .enc => { s with se := S }
  | .dec => { s with sd := S }

end Sys2Proof.Machine
end

