-- ==== Sys2Proof/Machine/Flags.lean ====
section
/-!
DEFINITION. The status snapshot STAT and the response word (spec/10_state.md R46, spec/30_encoding.md R93 to R95,
spec/60_exceptions.md R191).
-/

namespace Sys2Proof.Machine

/-- The outcome codes (R94). -/
inductive Code where
  | ok
  | invalidKeyLength
  | invalidIvLength
  | noHandle
  | illegalCommand
  | primitiveFailure
  | faulted
deriving DecidableEq, Repr

/-- The value of CODE for each outcome (R94). -/
def codeBits : Code → Byte
  | .ok => 0x00
  | .invalidKeyLength => 0x01
  | .invalidIvLength => 0x02
  | .noHandle => 0x03
  | .illegalCommand => 0x04
  | .primitiveFailure => 0x05
  | .faulted => 0x06

/-- The encoding of VAR: 0 for V128, 1 for V256 (R32, R113). -/
def varBit : Variant → BitVec 1
  | .v128 => 0
  | .v256 => 1

/-- `STAT = {0b00000, FLT, VAR, HV}` (R46). -/
def stat (s : State) : Byte := 0#5 ++ BitVec.ofBool s.flt ++ varBit s.var ++ BitVec.ofBool s.hv

/-- `Resp(code, arg, acc)` with the STAT of the state it is pushed in (R93, R95). -/
def respWord (c : Code) (arg acc : Byte) (s : State) : Word := codeBits c ++ arg ++ acc ++ stat s

/-- The PRIMITIVE_FAILURE response `{0x05, t[23:0]}` (R93, R196). -/
def failureWord (t : Nat) : Word := codeBits .primitiveFailure ++ BitVec.ofNat 24 t

end Sys2Proof.Machine
end

