-- ==== Sys2Proof/Machine/Ops.lean ====
section
/-!
DEFINITION. The operations every command is built from: the channel primitives (spec/00_scope.md R20), the error
outcome `raise` (R22), the two checks that stand before a command's own work (spec/30_encoding.md R100), and the port
to the block cipher (R21, spec/42_keystream.md R137).
-/

namespace Sys2Proof.Machine

/-! ### Channels -/

/-- `DinPop(n)` (R20): the first n bytes of DIN and the state without them, if DIN holds that many. -/
def dinPop (n : Nat) (s : State) : Option (List Byte × State) :=
  if n ≤ s.din.length then some (s.din.take n, { s with din := s.din.drop n }) else none

/-- `DoutPush(b)` (R20). -/
def doutPush (b : List Byte) (s : State) : State := { s with dout := s.dout ++ b }

/-- `RspPush(w)` (R20). -/
def rspPush (w : Word) (s : State) : State := { s with rsp := s.rsp ++ [w] }

/-! ### Outcomes of a command -/

/-- End a command with a response in the common layout, its STAT taken now (R22, R93, R95). -/
def respond (c : Code) (arg acc : Byte) (s : State) : State := rspPush (respWord c arg acc s) s

/-- A command that does not raise ends by pushing `Resp(OK, 0, 0)` (R22). -/
def complete (s : State) : State := respond .ok 0 0 s

/-- `raise <Code>(arg, acc)`: the one way a command ends in an error other than PRIMITIVE_FAILURE; it writes no
further state (R22, R190, R200). -/
def raise (c : Code) (arg acc : Byte) (s : State) : State := respond c arg acc s

/-- An illegal word raises ILLEGAL_COMMAND with W[31:24] and pops no payload (R89, R195). -/
def raiseIllegal (w : Word) (s : State) : State := raise .illegalCommand (wordTop w) 0 s

/-- The end of a command whose primitive invocation failed after t output bytes: FLT is set and the failure response
pushed (R145, R196 (d), (e)). -/
def failPrimitive (t : Nat) (s : State) : State := rspPush (failureWord t) { s with flt := true }

/-- Pop the declared payload and run the rest of the command on it (R91, R100). DIN short of the payload is outside
the enabling condition of R78, where `step` waits. -/
def popPayload (n : Nat) (s : State) (body : List Byte → State → State) : Host.Outcome State Fault Refusal :=
  match dinPop n s with
  | none => .fault .payloadIncomplete
  | some (p, s') => .next (body p s')

/-- The FAULTED check every legal command but STATUS makes after its payload is popped (R100, R197). -/
def unlessFaulted (body : List Byte → State → State) (p : List Byte) (s : State) : State :=
  if s.flt then raise .faulted 0 0 s else body p s

/-! ### The primitive port -/

/-- `Prim(VAR, KEYBYTES, block)` at invocation number n of an engine with state s: the environment draws whether it
fails, and otherwise the cipher answers (R21, R114, R137). -/
def askPrimitive (P : Primitive) (s : State) (n : Nat) (block : Block) : Option Block :=
  if P.fails s.stream n then none else some (P.encrypt s.var (keyBytes s.var s.key) block)

end Sys2Proof.Machine
end

