-- ==== Sys2Proof/Machine/ModeSelector.lean ====
section
/-!
DEFINITION. The Mode Selector (spec/40_mode_selector.md R110 to R115).
-/

namespace Sys2Proof.Machine

/-- `SelectMode(klen)`: the variant of a key length, or no variant, which is InvalidKeyLength (R110, R112). -/
def selectMode (klen : Nat) : Option Variant :=
  if klen = 16 then some .v128 else if klen = 32 then some .v256 else none

end Sys2Proof.Machine
end

