-- ==== Sys2Proof/Machine/Handle.lean ====
section
/-!
DEFINITION. The Cipher Handle facade: CREATE and STATUS (spec/44_handle.md R170 to R178).
-/

namespace Sys2Proof.Machine

/-- A session bank as a successful CREATE seeds it from the IV (R123, R171). -/
def seedSession (iv : List Byte) : Session where
  ctr := be128 iv
  ks := zeroBlock
  off := 16

/-- Construct the handle: all the writes of a successful CREATE (R171, R173). -/
def construct (v : Variant) (key iv : List Byte) (s : State) : State :=
  { s with hv := true, var := v, key := keyRegister key, se := seedSession iv, sd := seedSession iv }

/-- `ExecCreate(KLEN, IVLEN, p)` after the common checks: the key length is checked first, then the IV length (R170,
R174); a failed CREATE writes nothing (R172). -/
def createBody (klen ivlen : Nat) (p : List Byte) (s : State) : State :=
  match selectMode klen with
  | none => raise .invalidKeyLength (BitVec.ofNat 8 klen) 0x03 s
  | some v =>
    if ivlen = 16 then complete (construct v (keySlice klen p) (ivSlice klen ivlen p) s)
    else raise .invalidIvLength (BitVec.ofNat 8 ivlen) 0x01 s

/-- CREATE (R170). -/
def execCreate (klen ivlen : Nat) (s : State) : Host.Outcome State Fault Refusal :=
  popPayload (Instr.decl (.create klen ivlen)) s (unlessFaulted (createBody klen ivlen))

/-- STATUS (R176): it pops no payload and is not refused while FLT = 1 (R197). -/
def execStatus (s : State) : Host.Outcome State Fault Refusal := .next (complete s)

end Sys2Proof.Machine
end

