-- ==== Sys2Proof/Machine/Counter.lean ====
section
/-!
DEFINITION. The Counter Block incrementer and INCR (spec/41_counter_block.md R120 to R125).
-/

namespace Sys2Proof.Machine

/-- `Inc(c) = (c + 1) mod 2^128` (R120, R122). -/
def inc (c : BitVec 128) : BitVec 128 := c + 1

/-- `ExecIncr(b)` after the common checks (R124). -/
def incrBody (b : List Byte) (s : State) : State :=
  complete (doutPush (bytes128 (inc (be128 b))).toList s)

/-- INCR (R124). -/
def execIncr (s : State) : Host.Outcome State Fault Refusal :=
  popPayload (Instr.decl .incr) s (unlessFaulted incrBody)

end Sys2Proof.Machine
end

