-- ==== Sys2Proof/Machine/KeyStream.lean ====
section
/-!
DEFINITION. The Key-Stream Generator and the residual buffer (spec/42_keystream.md R135 to R143,
spec/10_state.md R38).
-/

namespace Sys2Proof.Machine

/-- `NextBlock(S)` at invocation number n (R135): encrypt the counter, then advance it. None is `fail`, which writes
nothing and is not retried (R138, R196 (c)). -/
def nextBlock (ask : Nat → Block → Option Block) (n : Nat) (S : Session) : Option Session :=
  match ask n (bytes128 S.ctr) with
  | none => none
  | some b => some { ctr := inc S.ctr, ks := b, off := 0 }

/-- Make a key-stream byte available: generate a block only where the residual is empty (R140). Answers the session
and the number of the next invocation. -/
def refill (ask : Nat → Block → Option Block) (n : Nat) (S : Session) : Option (Session × Nat) :=
  if S.off = 16 then
    match nextBlock ask n S with
    | none => none
    | some S' => some (S', n + 1)
  else some (S, n)

/-- `S.KS[S.OFF]`, the next unused key-stream byte (R145). Only asked of a session that `refill` answers, whose OFF is
below 16 (`Sys2Proof.Laws.refill_off_lt`). -/
def keyByte (S : Session) : Byte := S.ks.toList.getD S.off.val 0

/-- `S.OFF <- S.OFF + 1` (R145); under the same condition as `keyByte`. -/
def useByte (S : Session) : Session := { S with off := Fin.ofNat 17 (S.off.val + 1) }

end Sys2Proof.Machine
end

