-- ==== Sys2Proof/Machine/Streaming.lean ====
section
/-!
DEFINITION. The Streaming CTR Session: the XOR path and the commands ENC and DEC (spec/43_session.md R145 to R159).
-/

namespace Sys2Proof.Machine

/-- What the loop of R145 leaves: the bytes computed, the session, the number of the next primitive invocation, and
whether an invocation failed. -/
structure XorRun where
  out : List Byte
  session : Session
  drawn : Nat
  failed : Bool
deriving DecidableEq, Repr

/-- Put one more byte in front of a run's output. -/
def emit (b : Byte) (r : XorRun) : XorRun := { r with out := b :: r.out }

/-- The loop of ExecProcess over the payload (R145): each byte is XORed with the next unused key-stream byte, and the
first failing invocation ends the loop. -/
def xorPath (ask : Nat → Block → Option Block) : List Byte → Nat → Session → XorRun
  | [], n, S => { out := [], session := S, drawn := n, failed := false }
  | b :: p, n, S =>
    match refill ask n S with
    | none => { out := [], session := S, drawn := n + 1, failed := true }
    | some (S', n') => emit (b ^^^ keyByte S') (xorPath ask p n' (useByte S'))

/-- Write back a run of the XOR path: the selected session, the draw counter, and the bytes computed, which go to DOUT
whether or not the run failed (R145, R196 (a), (b)). -/
def commitRun (d : Dir) (r : XorRun) (s : State) : State :=
  doutPush r.out { s.setSession d r.session with drawn := r.drawn }

/-- `ExecProcess(S, p)` after the common checks (R145). -/
def process (P : Primitive) (d : Dir) (p : List Byte) (s : State) : State :=
  if s.hv then
    let r := xorPath (askPrimitive P s) p s.drawn (s.session d)
    if r.failed then failPrimitive r.out.length (commitRun d r s) else complete (commitRun d r s)
  else raise .noHandle 0 0 s

/-- ENC (R148). -/
def execEnc (len : Nat) (s : State) : Host.Outcome State Fault Refusal :=
  popPayload (Instr.decl (.enc len)) s (unlessFaulted (process Config.primitive .enc))

/-- DEC (R149). -/
def execDec (len : Nat) (s : State) : Host.Outcome State Fault Refusal :=
  popPayload (Instr.decl (.dec len)) s (unlessFaulted (process Config.primitive .dec))

end Sys2Proof.Machine
end

