-- ==== Sys2Proof/Machine/Dispatch.lean ====
section
/-!
DEFINITION. One arm for each command, the `case W of` of spec/30_encoding.md R100.
-/

namespace Sys2Proof.Machine

def exec (i : Instr) (s : State) : Host.Outcome State Fault Refusal :=
  match i with
  | .create klen ivlen => Sys2Proof.Machine.execCreate klen ivlen s
  | .enc len => Sys2Proof.Machine.execEnc len s
  | .dec len => Sys2Proof.Machine.execDec len s
  | .incr => Sys2Proof.Machine.execIncr s
  | .status => Sys2Proof.Machine.execStatus s

end Sys2Proof.Machine
end

