-- ==== Sys2Proof/Machine/Fetch.lean ====
section
/-!
DEFINITION. Taking a command from CMD: the enabling condition of a step, `CmdPop`, and placing a command where the
next step takes it (spec/20_memory.md R78, spec/30_encoding.md R100).
-/

namespace Sys2Proof.Machine

/-- What the engine finds at the head of CMD. -/
inductive Fetched where
  /-- No step is enabled (R78). -/
  | waiting
  /-- An illegal word, and the state with it popped (R89). -/
  | illegal (w : Word) (s : State)
  /-- A legal command whose payload is in DIN, and the state with its word popped (R78, R100). -/
  | command (i : Instr) (s : State)
deriving DecidableEq, Repr

/-- `CmdPop()` under the enabling condition: CMD is not empty and DIN holds DECL(W) bytes (R78, R91, R100). -/
def fetch (s : State) : Fetched :=
  match s.cmd with
  | [] => .waiting
  | w :: rest =>
    match decode w with
    | .error _ => .illegal w { s with cmd := rest }
    | .ok i => if i.decl ≤ s.din.length then .command i { s with cmd := rest } else .waiting

/-- The engine's step is enabled (R78). -/
def enabled (s : State) : Bool :=
  match fetch s with
  | .waiting => false
  | .illegal _ _ => true
  | .command _ _ => true

/-- Put a command word at the head of CMD and fill DIN with zero bytes up to its declared payload. -/
def placeWord (s : State) (w : Word) : State :=
  { s with cmd := w :: s.cmd, din := s.din ++ zeros (declWord w - s.din.length) }

end Sys2Proof.Machine
end

