-- ==== Sys2Proof/Machine/Step.lean ====
section
/-!
DEFINITION. One step of the engine agent: a whole command as one atomic transition (spec/20_memory.md R68,
spec/30_encoding.md R100). Where no step is enabled the engine waits with all state kept (R78, R209; log entry 3).
-/

namespace Sys2Proof.Machine

/-- `Step()` of R100. -/
def step (s : State) : Host.Outcome State Fault Refusal :=
  match fetch s with
  | .waiting => .next s
  | .illegal w s' => .next (raiseIllegal w s')
  | .command i s' => exec i s'

/-- The state whose next step runs the command in the word w: the host has pushed the word and a payload of zero
bytes (R225, R236; log entry 4). -/
def State.withFetchWord (s : State) (nbits w : Nat) : State := placeWord s (BitVec.ofNat 32 (w % 2 ^ nbits))

end Sys2Proof.Machine
end

