-- ==== Sys2Proof/Machine/HostActions.lean ====
section
/-!
DEFINITION. The host agent: what it can do to the engine and what it sees, and a run of engine and host together
(spec/70_reset_and_hazards.md R220, R221, R235, R236). The engine's own step is `step`; an event here says which agent
moves next.
-/

namespace Sys2Proof.Machine

/-- The host's actions (R236). -/
inductive HostAction where
  /-- Push a command word, legal or not. -/
  | pushCmd (w : Word)
  /-- Push one payload byte. -/
  | pushDin (b : Byte)
  /-- Pop a byte of DOUT. -/
  | popDout
  /-- Pop a word of RSP. -/
  | popRsp
  /-- Assert reset, at any time between two commands (R221). -/
  | assertReset
deriving DecidableEq, Repr

/-- What the host receives from an action (R235, R236). -/
inductive Observation where
  | byte (b : Byte)
  | word (w : Word)
deriving DecidableEq, Repr

/-- Reset as an event (R220): every item of the spec's state takes its reset value; the answers of PRIM_FAILS already
drawn are not drawn again (log entry 5). -/
def resetEvent (s : State) : State := { State.reset with stream := s.stream, drawn := s.drawn }

/-- A host action: what the host sees and the state after. None where the host cannot take it: a pop of an empty
channel (R236). -/
def hostAct (a : HostAction) (s : State) : Option (List Observation × State) :=
  match a with
  | .pushCmd w => some ([], { s with cmd := s.cmd ++ [w] })
  | .pushDin b => some ([], { s with din := s.din ++ [b] })
  | .popDout =>
    match s.dout with
    | [] => none
    | b :: rest => some ([.byte b], { s with dout := rest })
  | .popRsp =>
    match s.rsp with
    | [] => none
    | w :: rest => some ([.word w], { s with rsp := rest })
  | .assertReset => some ([], resetEvent s)

/-- The capacity of a channel: a natural number of at least 1 (R13). -/
abbrev Capacity := { n : Nat // 1 ≤ n }

/-- The capacities of the four channels (R13). No meaning reads them (R78; log entry 7). -/
structure ChannelDepths where
  /-- CMD_DEPTH, in words. -/
  cmd : Capacity
  /-- DIN_DEPTH, in bytes. -/
  din : Capacity
  /-- DOUT_DEPTH, in bytes. -/
  dout : Capacity
  /-- RSP_DEPTH, in words. -/
  rsp : Capacity
deriving DecidableEq, Repr

/-- In a realisation with finite capacities the host waits before a push while CMD or DIN is full (R78). -/
def hostWaits (c : ChannelDepths) (a : HostAction) (s : State) : Bool :=
  match a with
  | .pushCmd _ => decide (c.cmd.val ≤ s.cmd.length)
  | .pushDin _ => decide (c.din.val ≤ s.din.length)
  | .popDout => false
  | .popRsp => false
  | .assertReset => false

/-- In such a realisation, which streams a long command (R77), the engine waits while DIN is empty or while DOUT or RSP
is full (R78, R231). `owed` is the number of payload bytes the streamed command has still to pop: a command that has
none left to pop does not wait for DIN (log entry 7). -/
def engineWaitsForHost (c : ChannelDepths) (owed : Nat) (s : State) : Bool :=
  (decide (0 < owed) && s.din.isEmpty) || decide (c.dout.val ≤ s.dout.length) || decide (c.rsp.val ≤ s.rsp.length)

/-- Which agent moves: the engine takes a step, or the host acts (R26, R235). -/
inductive Event where
  | engine
  | host (a : HostAction)
deriving DecidableEq, Repr

/-- One event of a run: what the host sees of it and the state after. -/
def runEvent (e : Event) (s : State) : Option (List Observation × State) :=
  match e with
  | .engine =>
    match step s with
    | .next t => some ([], t)
    | .fault _ => none
    | .refused _ => none
  | .host a => hostAct a s

/-- A finite sequence of events, with everything the host sees in order (R235). -/
def runEvents : List Event → State → Option (List Observation × State)
  | [], s => some ([], s)
  | e :: es, s =>
    match runEvent e s with
    | none => none
    | some (o, t) =>
      match runEvents es t with
      | none => none
      | some (o', t') => some (o ++ o', t')

/-- A run has ended when no step is enabled and the host pushes nothing more (R235). -/
def ended (s : State) : Bool := !enabled s

end Sys2Proof.Machine
end

