-- ==== Sys2Proof/Machine/System.lean ====
section
/-!
DEFINITION. N_INSTANCES engines side by side (spec/00_scope.md R12, spec/60_exceptions.md R207): each has its own
state and channels, and nothing is shared.
-/

namespace Sys2Proof.Machine

/-- N_INSTANCES: a natural number of at least 1 (R12). -/
abbrev InstanceCount := { n : Nat // 1 ≤ n }

/-- A system of N_INSTANCES engine instances (R12). -/
abbrev System (n : InstanceCount) := Vector State n.val

/-- Every instance after reset; each reads a draw stream of its own, so that failures at one instance say nothing
about another (log entry 2). -/
def systemReset (n : InstanceCount) : System n := Vector.ofFn fun k => { State.reset with stream := k.val }

/-- An event at instance k. -/
def systemEvent {n : InstanceCount} (k : Fin n.val) (e : Event) (sys : System n) : Option (List Observation × System n) :=
  match runEvent e sys[k] with
  | none => none
  | some (o, t) => some (o, sys.set k.val t k.isLt)

end Sys2Proof.Machine
end

