-- ==== Sys2Proof/Safety.lean ====
section
/-!
DEFINITION. The terms claims are stated in: the states a run can be in, the residual and the key stream of a session
as the spec describes them (not as the loop computes them), and the position of a session in its key stream.
-/

namespace Sys2Proof.Machine

/-- The ENC or DEC command of a direction (R83). -/
def Dir.instr (d : Dir) (len : Nat) : Instr :=
  match d with
  | .enc => .enc len
  | .dec => .dec len

/-- Commands run one after another on one state, stopping where one does not answer a next state (R68). -/
def execAll : List Instr → State → Host.Outcome State Fault Refusal
  | [], s => .next s
  | i :: is, s =>
    match exec i s with
    | .next t => execAll is t
    | .fault f => .fault f
    | .refused r => .refused r

/-! ### The residual and the blocks a command needs (R38, R141) -/

/-- `RES(S) = 16 − S.OFF` (R38). -/
def resCount (S : Session) : Nat := 16 - S.off.val

/-- `NB` of R141 for residual count r and length len. -/
def blocksNeeded (r len : Nat) : Nat := if len ≤ r then 0 else (len - r + 15) / 16

/-- How many invocations in a row succeed, of at most `k` from number `n` of a draw stream (R14, R138). -/
def blocksMade (stream : Nat) : Nat → Nat → Nat
  | 0, _ => 0
  | k + 1, n => if Config.primFails stream n then 0 else blocksMade stream k (n + 1) + 1

/-- The block the primitive makes of a counter value (R63, R135). -/
def cipherBlock (v : Variant) (key : KeyReg) (c : BitVec 128) : Block :=
  Config.blockEncrypt v (keyBytes v key) (bytes128 c)

/-- The key-stream byte j bytes ahead of a session: from the residual first, then from the blocks of the counter
values that follow (R139, R146). -/
def keyByteAhead (v : Variant) (key : KeyReg) (S : Session) (j : Nat) : Byte :=
  if j < resCount S then S.ks.toList.getD (S.off.val + j) 0
  else (cipherBlock v key (S.ctr + BitVec.ofNat 128 ((j - resCount S) / 16))).toList.getD ((j - resCount S) % 16) 0

/-- The first `n` bytes of a payload XORed with the key stream ahead of a session. -/
def maskedBytes (v : Variant) (key : KeyReg) (S : Session) (p : List Byte) (n : Nat) : List Byte :=
  (List.range n).map fun j => p.getD j 0 ^^^ keyByteAhead v key S j

/-! ### The key stream of a handle (R139) -/

/-- `KSB(n)` of a handle with variant v, KEYBYTES k and IV iv (R139). -/
def keyStreamBlock (v : Variant) (k iv : List Byte) (n : Nat) : Block :=
  Config.blockEncrypt v k (bytes128 (be128 iv + BitVec.ofNat 128 n))

/-- Key-stream byte number t, `KSB(t div 16)[t mod 16]` (R139). -/
def keyStreamByte (v : Variant) (k iv : List Byte) (t : Nat) : Byte :=
  (keyStreamBlock v k iv (t / 16)).toList.getD (t % 16) 0

/-- The session has used exactly the first `t` key-stream bytes of its handle (R40, R139): its counter is the IV plus
the blocks generated, and its residual is the rest of the block last generated. -/
structure AtPosition (v : Variant) (k iv : List Byte) (t : Nat) (S : Session) : Prop where
  ctr : S.ctr = be128 iv + BitVec.ofNat 128 ((t + 15) / 16)
  off : S.off.val = if t % 16 = 0 then 16 else t % 16
  ks : t % 16 ≠ 0 → S.ks = keyStreamBlock v k iv (t / 16)

/-! ### How far a handle has been used (R40, R139, R142) -/

/-- The last successful CREATE since reset and what was done with its handle, told from the commands, their payloads
and their outputs: no part of the machine. `enc` and `dec` count the bytes ENC and DEC have put out since (R40). -/
structure HandleUse where
  /-- The key in the CREATE's payload. -/
  key : List Byte
  /-- The IV in the CREATE's payload. -/
  iv : List Byte
  enc : Nat
  dec : Nat
deriving DecidableEq, Repr

/-- The use after a command that ran from s to t: a successful CREATE (R170) begins a new one at positions 0 and 0
(R171, R173), ENC and DEC add the bytes they put out to their own count (R43, R139), and nothing else changes it. -/
def useAfterCommand (i : Instr) (s t : State) (g : Option HandleUse) : Option HandleUse :=
  match i with
  | .create klen ivlen =>
    if s.flt = false ∧ (klen = 16 ∨ klen = 32) ∧ ivlen = 16 then
      some { key := s.din.take klen, iv := (s.din.drop klen).take 16, enc := 0, dec := 0 }
    else g
  | .enc _ => g.map fun u => { u with enc := u.enc + (t.dout.length - s.dout.length) }
  | .dec _ => g.map fun u => { u with dec := u.dec + (t.dout.length - s.dout.length) }
  | .incr => g
  | .status => g

/-- The use after a step from s to t: that after the command at the head of CMD, if its payload is in DIN (R78); a
step that waits and an illegal word leave it alone. -/
def useAfterStep (s t : State) (g : Option HandleUse) : Option HandleUse :=
  match s.cmd with
  | [] => g
  | w :: _ =>
    match decode w with
    | .error _ => g
    | .ok i => if i.decl ≤ s.din.length then useAfterCommand i s t g else g

/-- The use after an event from s to t: reset ends it, and the host's other actions leave it alone (R220, R236). -/
def useAfterEvent (e : Event) (s t : State) (g : Option HandleUse) : Option HandleUse :=
  match e with
  | .engine => useAfterStep s t g
  | .host .assertReset => none
  | .host (.pushCmd _) => g
  | .host (.pushDin _) => g
  | .host .popDout => g
  | .host .popRsp => g

/-- The use after a run of events from a state (R235). -/
def useAfterEvents : List Event → State → Option HandleUse → Option HandleUse
  | [], _, g => g
  | e :: es, s, g =>
    match runEvent e s with
    | none => g
    | some (_, t) => useAfterEvents es t (useAfterEvent e s t g)

/-- The state holds the handle of this use: its key and the variant of the key's length, and each session at the
position of its own byte count in the key stream of that key and IV (R34, R40, R110, R139, R142). -/
structure HandleUse.HeldBy (u : HandleUse) (s : State) : Prop where
  valid : s.hv = true
  ivLength : u.iv.length = 16
  variant : selectMode u.key.length = some s.var
  key : keyBytes s.var s.key = u.key
  enc : AtPosition s.var u.key u.iv u.enc s.se
  dec : AtPosition s.var u.key u.iv u.dec s.sd

/-- The state holds exactly the handle of the use; no use, no handle (R31). -/
def State.Holds (s : State) (g : Option HandleUse) : Prop :=
  match g with
  | none => s.hv = false
  | some u => u.HeldBy s

/-- While there is a handle, each residual is of the block before its session's counter (R37, R38, R135). -/
def State.ResidualsFresh (s : State) : Prop :=
  s.hv = true → ∀ d : Dir, 1 ≤ (s.session d).off.val ∧
    ((s.session d).off = 16 ∨ (s.session d).ks = cipherBlock s.var s.key ((s.session d).ctr - 1))

/-! ### The carry ripple (R121) -/

/-- `IncBytes` of R121 over a byte string given least significant byte first. -/
def incBytesLE : List Byte → List Byte
  | [] => []
  | b :: rest => if b + 1 ≠ 0 then (b + 1) :: rest else (b + 1) :: incBytesLE rest

/-- `IncBytes` of R121: carry from the last byte toward byte 0. -/
def incBytes (b : List Byte) : List Byte := (incBytesLE b.reverse).reverse

/-! ### States between commands -/

/-- What holds between commands: the residual bound (R39), a fault only with a handle (R176), reset values while there
is no handle (R32, R50), and the zero padding of a V128 key (R34). -/
structure State.Inv (s : State) : Prop where
  seOff : 1 ≤ s.se.off.val
  sdOff : 1 ≤ s.sd.off.val
  faultHandle : s.flt = true → s.hv = true
  noHandle : s.hv = false → s.var = .v128 ∧ s.key = zeroKey ∧ s.se = Session.reset ∧ s.sd = Session.reset
  keyPad : s.var = .v128 → s.key.toList.drop 16 = zeros 16

/-- A state some run from reset ends in (R235). -/
def Reachable (s : State) : Prop := ∃ es obs, runEvents es State.reset = some (obs, s)

/-- The registers of R30 agree: everything but the channels and the model's own draw counters. -/
def SameRegisters (s t : State) : Prop :=
  s.hv = t.hv ∧ s.var = t.var ∧ s.flt = t.flt ∧ s.key = t.key ∧ s.se = t.se ∧ s.sd = t.sd

/-- Everything but RSP agrees. -/
def SameButRsp (s t : State) : Prop := { s with rsp := [] } = { t with rsp := [] }

end Sys2Proof.Machine
end

