-- ==== Sys2Proof/Certificates/Slice0/Obligations.lean ====
section
/-!
DEFINITION. The statements for the provers. Each docstring names the rules of spec/ it comes from. Statements about ENC
and DEC are over a direction d: `Dir.instr .enc len` is `ENC len`, `Dir.instr .dec len` is `DEC len`.
-/

open Sys2Proof Sys2Proof.Machine

/-! ### Command words -/

/-- R82 to R84, R96: the decoder reads back every well-formed command the encoder writes. -/
def Obligations.DecodeUndoesEncode : Prop :=
  ∀ i : Instr, i.wellFormed = true → decode (encode i) = .ok i

/-- R80 to R85: a legal word decodes to a well-formed command, and the encoder writes that very word for it, so no bit
of a legal word is dropped. -/
def Obligations.EncodeUndoesDecode : Prop :=
  ∀ (w : Word) (i : Instr), decode w = .ok i → i.wellFormed = true ∧ encode i = w

/-- R87: the decoder accepts exactly the legal words, those are the words that match a row of the opcode map, and no
word matches two rows. -/
def Obligations.LegalWordsMatchOneRow : Prop :=
  ∀ w : Word, (legal w = true ↔ ∃ r ∈ opcodeMap, w &&& r.mask = r.pattern) ∧
    ((∃ i, decode w = .ok i) ↔ ∃ r ∈ opcodeMap, w &&& r.mask = r.pattern) ∧
    ∀ r ∈ opcodeMap, ∀ r' ∈ opcodeMap, w &&& r.mask = r.pattern → w &&& r'.mask = r'.pattern → r = r'

/-- R99: the spec's encoding examples, read and written. -/
def Obligations.EncodingExamples : Prop :=
  ∀ e ∈ [(Instr.create 16 16, (0x10001010 : Word)), (.create 32 16, 0x10002010), (.create 5 17, 0x10000511),
      (.enc 5, 0x20000005), (.enc 20, 0x20000014), (.enc 0, 0x20000000), (.dec 25, 0x21000019),
      (.dec 16777215, 0x21FFFFFF), (.incr, 0x30000000), (.status, 0x40000000)],
    decode e.2 = .ok e.1 ∧ encode e.1 = e.2

/-- R88, R90: which words are illegal, by the field that makes them so. -/
def Obligations.ReservedFieldsAreIllegal : Prop :=
  ∀ w : Word,
    (wordOpc w = 0x1 → w.extractLsb' 16 12 ≠ 0 → decode w = .error .reservedBits) ∧
    (wordOpc w = 0x2 → w.extractLsb' 25 3 ≠ 0 → decode w = .error .reservedBits) ∧
    (wordOpc w = 0x3 ∨ wordOpc w = 0x4 → w.extractLsb' 0 28 ≠ 0 → decode w = .error .reservedBits) ∧
    (wordOpc w = 0x0 ∨ 0x5 ≤ wordOpc w → decode w = .error .reservedOpcode)

/-! ### One step -/

/-- R78, R100: with a legal word at the head of CMD and its payload in DIN, a step pops the word and is the execution
of the command. -/
def Obligations.StepRunsDecodedInstruction : Prop :=
  ∀ (s : State) (w : Word) (rest : List Word) (i : Instr), s.cmd = w :: rest → decode w = .ok i →
    i.decl ≤ s.din.length → step s = exec i { s with cmd := rest }

/-- R78, R209: with CMD empty or the head command's payload incomplete the engine waits with all state kept. That
waiting is a step to the same state is the model's choice (log entry 3). -/
def Obligations.StepWaitsForCommandAndPayload : Prop :=
  ∀ s : State, (s.cmd = [] ∨ ∃ w rest i, s.cmd = w :: rest ∧ decode w = .ok i ∧ s.din.length < i.decl) →
    step s = .next s

/-- R190, R199: no state faults or is refused; every step goes on. That it goes on where no command is enabled, to the
same state, is the model's choice (log entry 3, of the waiting of R78 and R209), so this is no claim of progress. -/
def Obligations.EveryStepGoesOn : Prop :=
  ∀ s : State, ∃ t, step s = .next t

/-- R89, R195: an illegal word is popped, answers ILLEGAL_COMMAND with W[31:24], pops no payload, and changes nothing
else, whatever the state (so also while faulted, R198). -/
def Obligations.IllegalWordAnswersIllegalCommand : Prop :=
  ∀ (s : State) (w : Word) (rest : List Word), s.cmd = w :: rest → (¬ ∃ r ∈ opcodeMap, w &&& r.mask = r.pattern) →
    step s = .next { s with cmd := rest, rsp := s.rsp ++ [0x04#8 ++ w.extractLsb' 24 8 ++ 0x00#8 ++ stat s] }

/-- R91: the declared payload of each command, and that a step pops exactly that many bytes whatever its outcome; with
R69 and R93, that it pops one word, only appends to DOUT, and pushes exactly one response. -/
def Obligations.CommandPopsDeclaredPayload : Prop :=
  (∀ w : Word,
    (∀ klen ivlen, decode w = .ok (.create klen ivlen) → declWord w = klen + ivlen) ∧
    (∀ len, decode w = .ok (.enc len) ∨ decode w = .ok (.dec len) → declWord w = len) ∧
    (decode w = .ok .incr → declWord w = 16) ∧
    (decode w = .ok .status → declWord w = 0) ∧
    (∀ e, decode w = .error e → declWord w = 0)) ∧
  ∀ (s : State) (w : Word) (rest : List Word), s.cmd = w :: rest → declWord w ≤ s.din.length →
    ∃ t out r, step s = .next t ∧ t.cmd = rest ∧ t.din = s.din.drop (declWord w) ∧
      t.dout = s.dout ++ out ∧ t.rsp = s.rsp ++ [r]

/-- R93 to R95: the CODE of a response is one of the seven; any response but PRIMITIVE_FAILURE carries in its low byte
the STAT of the state after the command, and PRIMITIVE_FAILURE comes only with FLT newly set. -/
def Obligations.ResponseCarriesCodeAndStat : Prop :=
  ∀ (s : State) (w : Word) (rest : List Word), s.cmd = w :: rest → declWord w ≤ s.din.length →
    ∃ t r, step s = .next t ∧ t.rsp = s.rsp ++ [r] ∧ (r.extractLsb' 24 8).toNat ≤ 6 ∧
      (r.extractLsb' 24 8 ≠ 0x05#8 → r.extractLsb' 0 8 = stat t) ∧
      (r.extractLsb' 24 8 = 0x05#8 → s.flt = false ∧ t.flt = true)

/-! ### The status bits -/

/-- R46: the layout of STAT, and its value after reset. -/
def Obligations.StatLayout : Prop :=
  (∀ s : State, (stat s).getLsbD 0 = s.hv ∧ (stat s).getLsbD 1 = decide (s.var = .v256) ∧
    (stat s).getLsbD 2 = s.flt ∧ (stat s).extractLsb' 3 5 = 0) ∧
  stat State.reset = 0x00

/-- R176: STATUS answers OK with STAT from every state, faulted or not, and changes nothing else. -/
def Obligations.StatusAnswersStat : Prop :=
  ∀ s : State, exec .status s = .next { s with rsp := s.rsp ++ [0x000000#24 ++ stat s] }

/-- R176: under the invariant, STAT is one of five values; 0x02, 0x04 and 0x06 never occur. -/
def Obligations.StatusValuesUnderInvariant : Prop :=
  ∀ s : State, s.Inv → stat s = 0x00 ∨ stat s = 0x01 ∨ stat s = 0x03 ∨ stat s = 0x05 ∨ stat s = 0x07

/-- R197: while FLT = 1 every legal command but STATUS pops its payload, answers FAULTED and changes nothing else; no
step clears FLT, and reset does. -/
def Obligations.FaultedEngineRefusesCommands : Prop :=
  (∀ (s : State) (i : Instr), s.flt = true → i ≠ .status → i.decl ≤ s.din.length →
    exec i s = .next { s with din := s.din.drop i.decl, rsp := s.rsp ++ [0x06#8 ++ 0x00#8 ++ 0x00#8 ++ stat s] }) ∧
  (∀ s t : State, s.flt = true → step s = .next t → t.flt = true) ∧
  ∀ s : State, (resetEvent s).flt = false

/-- R31, R33, R220: of all events, only reset clears HV or FLT. -/
def Obligations.OnlyResetClearsHandleAndFault : Prop :=
  ∀ (e : Event) (s t : State) (o : List Observation), e ≠ .host .assertReset → runEvent e s = some (o, t) →
    (s.hv = true → t.hv = true) ∧ (s.flt = true → t.flt = true)

/-! ### CREATE -/

/-- R110: the mode selector. -/
def Obligations.ModeSelectorAcceptsTwoLengths : Prop :=
  selectMode 16 = some .v128 ∧ selectMode 32 = some .v256 ∧
  ∀ klen, klen ≠ 16 → klen ≠ 32 → selectMode klen = none

/-- R170, R171: a CREATE with an accepted key length and a 16-byte IV writes KEY, VAR, HV and both banks, answers OK,
and changes nothing else but DIN and RSP. It holds whether or not a handle exists (R173). -/
def Obligations.CreateConstructsHandle : Prop :=
  ∀ (s : State) (klen : Nat) (v : Variant), s.flt = false → (klen = 16 ∧ v = .v128 ∨ klen = 32 ∧ v = .v256) →
    klen + 16 ≤ s.din.length →
    ∃ (key : KeyReg) (S : Session),
      key.toList = s.din.take klen ++ zeros (32 - klen) ∧
      S.ctr = be128 ((s.din.drop klen).take 16) ∧ S.ks.toList = zeros 16 ∧ S.off.val = 16 ∧
      exec (.create klen 16) s = .next { s with
        hv := true, var := v, key := key, se := S, sd := S, din := s.din.drop (klen + 16),
        rsp := s.rsp ++ [if klen = 16 then 0x00000001 else 0x00000003] }

/-- R192, R174: a CREATE with another key length answers INVALID_KEY_LENGTH, whatever the IV length, and writes no
state; no other command answers with that code. -/
def Obligations.CreateRejectsKeyLength : Prop :=
  (∀ (s : State) (klen ivlen : Nat), s.flt = false → klen ≠ 16 → klen ≠ 32 → klen + ivlen ≤ s.din.length →
    exec (.create klen ivlen) s = .next { s with
      din := s.din.drop (klen + ivlen), rsp := s.rsp ++ [0x01#8 ++ BitVec.ofNat 8 klen ++ 0x03#8 ++ stat s] }) ∧
  ∀ (i : Instr) (s t : State) (r : Word), exec i s = .next t → t.rsp = s.rsp ++ [r] →
    r.extractLsb' 24 8 = 0x01#8 → ∃ klen ivlen, i = .create klen ivlen

/-- R193: a CREATE with an accepted key length and another IV length answers INVALID_IV_LENGTH and writes no state. -/
def Obligations.CreateRejectsIvLength : Prop :=
  ∀ (s : State) (klen ivlen : Nat), s.flt = false → (klen = 16 ∨ klen = 32) → ivlen ≠ 16 →
    klen + ivlen ≤ s.din.length →
    exec (.create klen ivlen) s = .next { s with
      din := s.din.drop (klen + ivlen), rsp := s.rsp ++ [0x02#8 ++ BitVec.ofNat 8 ivlen ++ 0x01#8 ++ stat s] }

/-- R172: a CREATE that does not answer OK writes no state of R30 and discards its payload. -/
def Obligations.FailedCreateKeepsRegisters : Prop :=
  ∀ (s : State) (klen ivlen : Nat), klen + ivlen ≤ s.din.length →
    ∃ t r, exec (.create klen ivlen) s = .next t ∧ t.rsp = s.rsp ++ [r] ∧
      t.din = s.din.drop (klen + ivlen) ∧ t.dout = s.dout ∧ t.cmd = s.cmd ∧ t.drawn = s.drawn ∧
      (r.extractLsb' 24 8 ≠ 0x00#8 → SameRegisters s t)

/-- R173, R175: a successful CREATE leaves registers that depend on its key and IV alone, so a replaced handle leaves
no trace and the same key and IV start the same key stream again. -/
def Obligations.CreateForgetsEarlierHandle : Prop :=
  ∀ (s s' : State) (klen : Nat), s.flt = false → s'.flt = false → (klen = 16 ∨ klen = 32) →
    klen + 16 ≤ s.din.length → s.din.take (klen + 16) = s'.din.take (klen + 16) →
    ∃ t t', exec (.create klen 16) s = .next t ∧ exec (.create klen 16) s' = .next t' ∧ SameRegisters t t'

/-- R123: both sessions of a new handle stand at the start of the key stream whose block 0 is the encryption of the
IV itself, and the primitive will be given the key as presented. -/
def Obligations.CreateStartsKeyStreamAtIv : Prop :=
  ∀ (s : State) (klen : Nat), s.flt = false → (klen = 16 ∨ klen = 32) → klen + 16 ≤ s.din.length →
    ∃ t, exec (.create klen 16) s = .next t ∧ keyBytes t.var t.key = s.din.take klen ∧
      (∀ d : Dir, (t.session d).ctr = be128 ((s.din.drop klen).take 16) ∧
        AtPosition t.var (s.din.take klen) ((s.din.drop klen).take 16) 0 (t.session d)) ∧
      (bytes128 (t.session .enc).ctr).toList = (s.din.drop klen).take 16

/-! ### ENC and DEC -/

/-- R194: without a handle, ENC and DEC discard their payload, answer NO_HANDLE and change nothing else. -/
def Obligations.ProcessWithoutHandle : Prop :=
  ∀ (d : Dir) (len : Nat) (s : State), s.hv = false → s.flt = false → len ≤ s.din.length →
    exec (d.instr len) s = .next { s with
      din := s.din.drop len, rsp := s.rsp ++ [0x03#8 ++ 0x00#8 ++ 0x00#8 ++ stat s] }

/-- R155: ENC 0 and DEC 0 answer OK (NO_HANDLE without a handle) and change nothing, draws of the primitive among
them. -/
def Obligations.ZeroLengthIsNoOp : Prop :=
  ∀ (d : Dir) (s : State), s.flt = false →
    exec (d.instr 0) s = .next { s with
      rsp := s.rsp ++ [(if s.hv then 0x00#8 else 0x03#8) ++ 0x00#8 ++ 0x00#8 ++ stat s] }

/-- R148, R140: a command no longer than the residual is served from it: no invocation, only OFF moves, and it answers
OK. -/
def Obligations.ResidualServesShortCommand : Prop :=
  ∀ (d : Dir) (len : Nat) (s : State), s.hv = true → s.flt = false → len ≤ s.din.length →
    len ≤ resCount (s.session d) →
    ∃ S : Session, S.ctr = (s.session d).ctr ∧ S.ks = (s.session d).ks ∧
      S.off.val = (s.session d).off.val + len ∧
      exec (d.instr len) s = .next { s.setSession d S with
        din := s.din.drop len,
        dout := s.dout ++ List.zipWith (fun b k => b ^^^ k) (s.din.take len)
          ((s.session d).ks.toList.drop (s.session d).off.val),
        rsp := s.rsp ++ [0x000000#24 ++ stat s] }

/-- R145, R146, R141, R196 in closed form: ENC and DEC, for every state with a handle and no fault. With R residual
bytes, NB blocks needed and m of the NB invocations succeeding in a row, the output is the first u bytes of the payload
XORed with the key stream ahead, where u is LEN if m = NB and R + 16·m otherwise. The counter advances by m; OFF and
KS are those of the last block used. The answer is OK if m = NB; otherwise one more draw was made, FLT is set and the
answer is PRIMITIVE_FAILURE with count u. Everything else is unchanged. Which invocations fail is the model's free value
(log entry 2), counted by its own field drawn. -/
def Obligations.ProcessClosedForm : Prop :=
  ∀ (d : Dir) (len : Nat) (s : State), s.hv = true → s.flt = false → len ≤ s.din.length →
    let S := s.session d
    let nb := blocksNeeded (resCount S) len
    let m := blocksMade s.stream nb s.drawn
    let u := if m = nb then len else resCount S + 16 * m
    ∃ S' : Session,
      S'.ctr = S.ctr + BitVec.ofNat 128 m ∧
      S'.ks = (if m = 0 then S.ks else cipherBlock s.var s.key (S.ctr + BitVec.ofNat 128 (m - 1))) ∧
      S'.off.val = (if m = 0 then S.off.val + u else u - resCount S - 16 * (m - 1)) ∧
      exec (d.instr len) s = .next { s.setSession d S' with
        flt := decide (m ≠ nb),
        drawn := if m = nb then s.drawn + m else s.drawn + m + 1,
        din := s.din.drop len,
        dout := s.dout ++ maskedBytes s.var s.key S s.din u,
        rsp := s.rsp ++ [if m = nb then 0x000000#24 ++ stat s else 0x05#8 ++ BitVec.ofNat 24 u] }

/-- R196, R147, R92: ENC and DEC with a handle either answer OK with LEN bytes of output and FLT clear, or
PRIMITIVE_FAILURE with t < LEN bytes and FLT set. In that case the output and the session are those of the same command
on the first t bytes alone, which answers OK; one invocation more was made, and not retried; the payload is gone, and
KEY, VAR, HV and the other bank are unchanged. -/
def Obligations.FailureIsShorterSuccess : Prop :=
  ∀ (d : Dir) (len : Nat) (s : State), s.hv = true → s.flt = false → len ≤ s.din.length →
    ∃ t out, exec (d.instr len) s = .next t ∧ t.dout = s.dout ++ out ∧ t.din = s.din.drop len ∧
      t.hv = s.hv ∧ t.var = s.var ∧ t.key = s.key ∧ (∀ d', d' ≠ d → t.session d' = s.session d') ∧
      ((t.flt = false ∧ out.length = len ∧ t.rsp = s.rsp ++ [0x000000#24 ++ stat s]) ∨
       (t.flt = true ∧ out.length < len ∧ t.rsp = s.rsp ++ [0x05#8 ++ BitVec.ofNat 24 out.length] ∧
        ∃ t', exec (d.instr out.length) s = .next t' ∧ t'.flt = false ∧ t'.dout = t.dout ∧
          t'.session d = t.session d ∧ t.drawn = t'.drawn + 1))

/-- R150: the other bank is neither written nor read: whatever stands in it stays, and the rest of the outcome does not
depend on it. -/
def Obligations.OtherBankUntouched : Prop :=
  ∀ (d d' : Dir) (len : Nat) (s : State) (X : Session), d' ≠ d → len ≤ s.din.length →
    ∃ t, exec (d.instr len) s = .next t ∧ t.session d' = s.session d' ∧
      exec (d.instr len) (s.setSession d' X) = .next (t.setSession d' X)

/-- R148, R149, R136: the frame of ENC and DEC. -/
def Obligations.ProcessFrame : Prop :=
  ∀ (d : Dir) (len : Nat) (s t : State), exec (d.instr len) s = .next t →
    t.hv = s.hv ∧ t.var = s.var ∧ t.key = s.key ∧ t.cmd = s.cmd ∧ t.stream = s.stream ∧
      (∀ d', d' ≠ d → t.session d' = s.session d') ∧
      t.din = s.din.drop len ∧ s.dout <+: t.dout ∧ (∃ r, t.rsp = s.rsp ++ [r]) ∧
      (s.hv = false ∨ s.flt = true →
        t.session d = s.session d ∧ t.flt = s.flt ∧ t.drawn = s.drawn ∧ t.dout = s.dout)

/-- R141: the number of invocations of a command that does not fail, and the residual it leaves. -/
def Obligations.BlocksPerCommand : Prop :=
  ∀ (d : Dir) (len : Nat) (s : State), s.hv = true → s.flt = false → len ≤ s.din.length →
    let r := resCount (s.session d)
    let nb := if len ≤ r then 0 else ⌈((len - r : Nat) : ℚ) / 16⌉₊
    ∃ t, exec (d.instr len) s = .next t ∧ (t.flt = false →
      t.drawn = s.drawn + nb ∧ (t.session d).ctr = (s.session d).ctr + BitVec.ofNat 128 nb ∧
      resCount (t.session d) = if len ≤ r then r - len else 16 * nb - (len - r))

/-- R152, for commands of one direction one after another: any split of a payload into commands leaves the same state
as one command on the whole payload, but for the response words. It holds in every state, through failures too. -/
def Obligations.ChunkInvariance : Prop :=
  ∀ (d : Dir) (chunks : List Nat) (s : State), chunks.sum ≤ s.din.length →
    ∃ t t', execAll (chunks.map d.instr) s = .next t ∧ exec (d.instr chunks.sum) s = .next t' ∧ SameButRsp t t'

/-- R153: where both sessions stand at the same place, ENC of n bytes and then DEC of what it put out gives back the
plaintext. If DEC ends without a fault it gives all of it and the sessions meet again; otherwise it gives a beginning
of it. -/
def Obligations.DecryptInvertsEncrypt : Prop :=
  ∀ (n : Nat) (s : State), s.hv = true → s.flt = false → s.se = s.sd → n ≤ s.din.length →
    ∃ t c, exec (.enc n) s = .next t ∧ t.dout = s.dout ++ c ∧
      ∃ t' p, exec (.dec c.length) { t with din := c } = .next t' ∧ t'.dout = t.dout ++ p ∧
        p <+: s.din.take n ∧ (t'.flt = false → p = s.din.take n ∧ t'.sd = t'.se)

/-- R158: output byte j of a command depends on the payload bytes up to j alone. -/
def Obligations.OutputPrefixDependsOnPayloadPrefix : Prop :=
  ∀ (d : Dir) (s : State) (p q : List Byte) (m : Nat), p.take m = q.take m →
    ∃ t t' out out', exec (d.instr p.length) { s with din := p } = .next t ∧
      exec (d.instr q.length) { s with din := q } = .next t' ∧
      t.dout = s.dout ++ out ∧ t'.dout = s.dout ++ out' ∧ out.take m = out'.take m

/-- R139, R40: a session that has used the first T bytes of its handle's key stream XORs its payload with the bytes
from T on, each once and in order, and then has used as many more as it put out; its counter is the IV plus the blocks
generated, after a PRIMITIVE_FAILURE too. How many bytes it puts out is FailureIsShorterSuccess's to say. -/
def Obligations.ProcessFollowsKeyStream : Prop :=
  ∀ (d : Dir) (len : Nat) (s : State) (iv : List Byte) (T : Nat), s.hv = true → s.flt = false → len ≤ s.din.length →
    AtPosition s.var (keyBytes s.var s.key) iv T (s.session d) →
    ∃ t out, exec (d.instr len) s = .next t ∧ t.dout = s.dout ++ out ∧
      out = (List.range out.length).map (fun j =>
        s.din.getD j 0 ^^^ keyStreamByte s.var (keyBytes s.var s.key) iv (T + j)) ∧
      AtPosition t.var (keyBytes t.var t.key) iv (T + out.length) (t.session d)

/-- R139, R40, R43, R171: from every state that holds the handle of a use, and so both sessions at its byte counts in
the key stream of its key and IV, every step leads to a state that holds the handle of the use after it: each count
grown by exactly the bytes that an ENC or a DEC, its own, put out; a successful CREATE's key and IV with counts 0 and 0;
everything else as it was. A state without a handle has one after a successful CREATE only. -/
def Obligations.StepKeepsSessionsInKeyStream : Prop :=
  ∀ (s t : State) (g : Option HandleUse), s.Holds g → step s = .next t → t.Holds (useAfterStep s t g)

/-- R40, R142, R220, R235: at the end of every run from reset, the state holds the handle of the last successful CREATE
since the last reset: its payload's key, and each session at the position in the key stream of its payload's IV that its
own commands have reached by the bytes they have put out since. -/
def Obligations.ReachableSessionsInKeyStream : Prop :=
  (∀ (e : Event) (s t : State) (o : List Observation) (g : Option HandleUse), s.Holds g →
    runEvent e s = some (o, t) → t.Holds (useAfterEvent e s t g)) ∧
  ∀ (es : List Event) (obs : List Observation) (s : State), runEvents es State.reset = some (obs, s) →
    s.Holds (useAfterEvents es State.reset none)

/-- R37, R135, R39: every step and every other event keeps that a residual is of the block before its session's
counter; reset, where there is no handle, begins with it. -/
def Obligations.ResidualIsOfBlockBeforeCounter : Prop :=
  State.reset.ResidualsFresh ∧
  ∀ (e : Event) (s t : State) (o : List Observation), s.ResidualsFresh → runEvent e s = some (o, t) →
    t.ResidualsFresh

/-- R156: a payload of zero bytes returns the key stream ahead of the session, and any other payload of that length
returns itself XORed with those bytes and leaves the same state otherwise. -/
def Obligations.ZeroPayloadReturnsKeyStream : Prop :=
  ∀ (d : Dir) (s : State) (p : List Byte), s.hv = true → s.flt = false →
    ∃ t k, exec (d.instr p.length) { s with din := zeros p.length } = .next t ∧ t.dout = s.dout ++ k ∧
      k = (List.range k.length).map (keyByteAhead s.var s.key (s.session d)) ∧
      (t.flt = false → k.length = p.length) ∧
      exec (d.instr p.length) { s with din := p } =
        .next { t with dout := s.dout ++ List.zipWith (fun b x => b ^^^ x) p k }

/-- R143: after commands on 2^128 blocks' worth of bytes with no failing invocation, however the bytes are split, a
session has made 2^128 blocks and stands where it stood: counter and OFF are as before, every response was OK and FLT is
as before (the engine neither detects nor prevents it), and any further payload q is given the key stream it would have
been given at the start. ENC and DEC are `process` with the attached primitive (first clause); the second clause is for
any primitive. Its premises on the session hold between commands: OFF is at least 1 (R39), and a residual, where there
is one, is of the block before the counter (R37, R135). The count of invocations is the model's field drawn (log entry
2). -/
def Obligations.KeyStreamRepeatsAfterWrap : Prop :=
  (∀ (d : Dir) (len : Nat) (s : State), s.flt = false → len ≤ s.din.length →
    exec (d.instr len) s =
      .next (process Config.primitive d (s.din.take len) { s with din := s.din.drop len })) ∧
  ∀ (P : Primitive) (d : Dir) (payloads : List (List Byte)) (q : List Byte) (s : State), s.hv = true →
    (∀ n, P.fails s.stream n = false) → payloads.flatten.length = 16 * 2 ^ 128 → 1 ≤ (s.session d).off.val →
    ((s.session d).off = 16 ∨
      (s.session d).ks = P.encrypt s.var (keyBytes s.var s.key) (bytes128 ((s.session d).ctr - 1))) →
    let t := payloads.foldl (fun u p => process P d p u) s
    t.drawn = s.drawn + 2 ^ 128 ∧ (t.session d).ctr = (s.session d).ctr ∧ (t.session d).off = (s.session d).off ∧
      t.flt = s.flt ∧ t.rsp = s.rsp ++ List.replicate payloads.length (0x000000#24 ++ stat s) ∧
      ∃ out x : List Byte, out.length = 16 * 2 ^ 128 ∧ t.dout = s.dout ++ out ∧ x.length = q.length ∧
        (process P d q s).dout = s.dout ++ x ∧ (process P d q t).dout = t.dout ++ x

/-- R122, R143, R135: iterating Inc gives a counter back after 2^128 times and its multiples, no sooner; and ENC or DEC
of 1 to 16 bytes on a session with an empty residual and a counter of all ones makes one invocation, on that counter.
If it succeeds the counter is 0, OFF is the length and the answer OK: no error at the wrap. If it fails (a free value,
log entry 2) the session is unchanged and the answer is PRIMITIVE_FAILURE with count 0. -/
def Obligations.CounterWrapsWithoutError : Prop :=
  (∀ (c : BitVec 128) (n : Nat), inc^[n] c = c ↔ 2 ^ 128 ∣ n) ∧
  ∀ (d : Dir) (len : Nat) (s : State), s.hv = true → s.flt = false → 1 ≤ len → len ≤ 16 → len ≤ s.din.length →
    (s.session d).off = 16 → (s.session d).ctr = BitVec.allOnes 128 →
    let block := cipherBlock s.var s.key (BitVec.allOnes 128)
    exec (d.instr len) s = .next (if Config.primFails s.stream s.drawn then
        { s with flt := true, drawn := s.drawn + 1, din := s.din.drop len, rsp := s.rsp ++ [0x05000000] }
      else
        { s.setSession d { ctr := 0, ks := block, off := Fin.ofNat 17 len } with
          drawn := s.drawn + 1, din := s.din.drop len,
          dout := s.dout ++ List.zipWith (fun b k => b ^^^ k) (s.din.take len) block.toList,
          rsp := s.rsp ++ [0x000000#24 ++ stat s] })

/-! ### INCR and byte order -/

/-- R18: BE128 is the sum the spec writes, BYTES128 has the bytes the spec writes, and each undoes the other. -/
def Obligations.BigEndianConversions : Prop :=
  (∀ b : List Byte, b.length = 16 →
    (be128 b).toNat = ∑ i ∈ Finset.range 16, (b.getD i 0).toNat * 2 ^ (8 * (15 - i)) ∧
    (bytes128 (be128 b)).toList = b) ∧
  (∀ v : BitVec 128, be128 (bytes128 v).toList = v ∧
    ∀ i (h : i < 16), (bytes128 v)[i] = BitVec.ofNat 8 (v.toNat / 2 ^ (120 - 8 * i)))

/-- R120, R122, R124: INCR with no fault pushes the 16 bytes whose number is its payload's plus one, modulo 2^128, so
all 0xFF gives all 0x00; it answers OK and changes nothing but DIN, DOUT and RSP, with or without a handle. -/
def Obligations.IncrAddsOneModulo : Prop :=
  (∀ c : BitVec 128, (inc c).toNat = (c.toNat + 1) % 2 ^ 128) ∧
  ∀ s : State, s.flt = false → 16 ≤ s.din.length →
    ∃ out : List Byte, out.length = 16 ∧ beNat out = (beNat (s.din.take 16) + 1) % 2 ^ 128 ∧
      (s.din.take 16 = List.replicate 16 0xFF → out = zeros 16) ∧
      exec .incr s = .next { s with
        din := s.din.drop 16, dout := s.dout ++ out, rsp := s.rsp ++ [0x000000#24 ++ stat s] }

/-- R121: the increment is the carry that ripples from byte 15 toward byte 0. -/
def Obligations.IncrementRipplesCarry : Prop :=
  ∀ b : List Byte, b.length = 16 → (bytes128 (inc (be128 b))).toList = incBytes b

/-! ### Invariants -/

/-- R39, R32, R50, R34, R176: the invariant holds after reset. -/
def Obligations.ResetMeetsInvariant : Prop := State.reset.Inv

/-- R39, R32, R34, R176: every step of every state that meets the invariant keeps it. -/
def Obligations.StepKeepsInvariant : Prop :=
  ∀ s t : State, s.Inv → step s = .next t → t.Inv

/-- R236, R220: every event of engine and host keeps the invariant, so it holds in every state a run from reset
reaches. -/
def Obligations.ReachableStatesMeetInvariant : Prop :=
  (∀ (e : Event) (s t : State) (o : List Observation), s.Inv → runEvent e s = some (o, t) → t.Inv) ∧
  ∀ s : State, Reachable s → s.Inv

/-- R39: between commands each residual holds 0 to 15 bytes. -/
def Obligations.ResidualBound : Prop :=
  ∀ (s : State) (d : Dir), Reachable s →
    1 ≤ (s.session d).off.val ∧ (s.session d).off.val ≤ 16 ∧ resCount (s.session d) ≤ 15

/-! ### Reset, host and instances -/

/-- R50: the state after reset. -/
def Obligations.ResetValues : Prop :=
  State.reset.hv = false ∧ State.reset.var = .v128 ∧ State.reset.flt = false ∧ State.reset.key.toList = zeros 32 ∧
  (∀ d : Dir, (State.reset.session d).ctr = 0 ∧ (State.reset.session d).ks.toList = zeros 16 ∧
    (State.reset.session d).off.val = 16) ∧
  State.reset.cmd = [] ∧ State.reset.din = [] ∧ State.reset.dout = [] ∧ State.reset.rsp = [] ∧
  stat State.reset = 0x00

/-- R220: reset from any state gives every item of the spec's state its reset value; what it keeps are the model's own
draw counters (log entry 5). -/
def Obligations.ResetEventRestoresResetState : Prop :=
  ∀ s : State, hostAct .assertReset s = some ([], resetEvent s) ∧
    SameRegisters (resetEvent s) State.reset ∧ (resetEvent s).cmd = [] ∧ (resetEvent s).din = [] ∧
    (resetEvent s).dout = [] ∧ (resetEvent s).rsp = []

/-- R236: a host action other than reset changes one channel at one end, and no register. -/
def Obligations.HostActionsReachChannelsOnly : Prop :=
  ∀ s : State,
    (∀ w, hostAct (.pushCmd w) s = some ([], { s with cmd := s.cmd ++ [w] })) ∧
    (∀ b, hostAct (.pushDin b) s = some ([], { s with din := s.din ++ [b] })) ∧
    (∀ b rest, s.dout = b :: rest → hostAct .popDout s = some ([.byte b], { s with dout := rest })) ∧
    (∀ w rest, s.rsp = w :: rest → hostAct .popRsp s = some ([.word w], { s with rsp := rest })) ∧
    (s.dout = [] → hostAct .popDout s = none) ∧ (s.rsp = [] → hostAct .popRsp s = none)

/-- R42: CREATE, INCR and STATUS let nothing of KEY, CTR, KS or OFF out: what they leave in the channels and the status
bits is the same for any two states that differ in those registers alone. -/
def Obligations.SecretsStayInside : Prop :=
  ∀ (i : Instr) (s : State) (key : KeyReg) (S S' : Session), (∀ d len, i ≠ Dir.instr d len) →
    i.decl ≤ s.din.length →
    ∃ t t', exec i s = .next t ∧ exec i { s with key := key, se := S, sd := S' } = .next t' ∧
      t'.hv = t.hv ∧ t'.var = t.var ∧ t'.flt = t.flt ∧ t'.cmd = t.cmd ∧ t'.din = t.din ∧ t'.dout = t.dout ∧
      t'.rsp = t.rsp

/-- R12, R207: an event at one instance is an event of that engine alone; every other instance keeps its state. -/
def Obligations.InstancesShareNothing : Prop :=
  ∀ (n : InstanceCount) (k : Fin n.val) (e : Event) (sys sys' : System n) (o : List Observation),
    systemEvent k e sys = some (o, sys') →
    runEvent e sys[k] = some (o, sys'[k]) ∧ ∀ j : Fin n.val, j ≠ k → sys'[j] = sys[j]
end

