-- ==== Sys2Proof/Laws/Bytes.lean ====
section
/-!
SUPPORT. Byte strings as big-endian numbers: the value and its bound, and that `be128` and `bytes128` undo each other
(spec/00_scope.md R18).
-/

namespace Sys2Proof.Laws

open Sys2Proof Sys2Proof.Machine

theorem beNat_nil : beNat [] = 0 := rfl

theorem beNat_concat (l : List Byte) (b : Byte) : beNat (l ++ [b]) = beNat l * 2 ^ 8 + b.toNat := by
  simp only [beNat, List.foldl_append, List.foldl_cons, List.foldl_nil]

/-- A string's number is below 256 to its length. -/
theorem beNat_lt (l : List Byte) : beNat l < 2 ^ (8 * l.length) := by
  induction l using List.reverseRecOn with
  | nil => decide
  | append_singleton l b ih =>
    have hb := b.isLt
    have hp : 2 ^ (8 * (l.length + 1)) = 2 ^ (8 * l.length) * 2 ^ 8 := by rw [← Nat.pow_add]; congr 1
    rw [beNat_concat, List.length_append, List.length_singleton, hp]
    nlinarith

/-- Two strings of one length with one number are one string. -/
theorem beNat_inj {l m : List Byte} (hl : l.length = m.length) (h : beNat l = beNat m) : l = m := by
  induction l using List.reverseRecOn generalizing m with
  | nil => exact (List.length_eq_zero_iff.mp hl.symm).symm
  | append_singleton l b ih =>
    obtain rfl | ⟨m, c, rfl⟩ := List.eq_nil_or_concat' m
    · simp at hl
    · rw [beNat_concat, beNat_concat] at h
      have hb := b.isLt
      have hc := c.isLt
      have hm : l = m := ih (by simpa using hl) (by omega)
      have hbc : b = c := BitVec.eq_of_toNat_eq (by omega)
      rw [hm, hbc]

@[simp] theorem length_bytes128 (v : BitVec 128) : (bytes128 v).toList.length = 16 := by simp

theorem bytes128_getElem (v : BitVec 128) (i : Nat) (h : i < 16) :
    (bytes128 v)[i] = v.extractLsb' (120 - 8 * i) 8 := by
  simp [bytes128]

/-- The first bytes of `bytes128 v` are the number's leading bits. -/
theorem beNat_take_bytes128 (v : BitVec 128) (k : Nat) (hk : k ≤ 16) :
    beNat ((bytes128 v).toList.take k) = v.toNat / 2 ^ (128 - 8 * k) := by
  induction k with
  | zero => have := v.isLt; simp [beNat_nil, Nat.div_eq_of_lt this]
  | succ k ih =>
    have hlt : k < (bytes128 v).toList.length := by simp; omega
    rw [List.take_add_one, List.getElem?_eq_getElem hlt, Option.toList_some, beNat_concat, ih (by omega)]
    have hb : (bytes128 v).toList[k].toNat = v.toNat / 2 ^ (120 - 8 * k) % 2 ^ 8 := by
      simp [bytes128, Nat.shiftRight_eq_div_pow]
    have he : 128 - 8 * k = (120 - 8 * k) + 8 := by omega
    have hs : 128 - 8 * (k + 1) = 120 - 8 * k := by omega
    rw [hb, he, hs, Nat.pow_add, ← Nat.div_div_eq_div_mul]
    omega

theorem beNat_bytes128 (v : BitVec 128) : beNat (bytes128 v).toList = v.toNat := by
  have h := beNat_take_bytes128 v 16 (le_refl _)
  rwa [List.take_of_length_le (by simp), Nat.mul_comm, Nat.sub_self, Nat.pow_zero, Nat.div_one] at h

theorem be128_bytes128 (v : BitVec 128) : be128 (bytes128 v).toList = v := by
  simp only [be128, beNat_bytes128, BitVec.ofNat_toNat, BitVec.setWidth_eq]

theorem be128_toNat {l : List Byte} (h : l.length = 16) : (be128 l).toNat = beNat l := by
  have hl := beNat_lt l
  rw [h] at hl
  rw [be128, BitVec.toNat_ofNat, Nat.mod_eq_of_lt (by simpa using hl)]

theorem inc_toNat (c : BitVec 128) : (inc c).toNat = (c.toNat + 1) % 2 ^ 128 := by
  simp [inc, BitVec.toNat_add]

theorem bytes128_be128 {l : List Byte} (h : l.length = 16) : (bytes128 (be128 l)).toList = l := by
  refine beNat_inj (by simp [h]) ?_
  rw [beNat_bytes128, be128_toNat h]

/-- The key register holds the key bytes first and zeros after them (R34). -/
theorem keyRegister_toList {key : List Byte} (h : key.length ≤ 32) :
    (keyRegister key).toList = key ++ zeros (32 - key.length) := by
  apply List.ext_getElem (by simp [keyRegister]; omega)
  intro j h1 h2
  by_cases hj : j < key.length
  · simp [keyRegister, hj]
  · simp [keyRegister, hj, Nat.le_of_not_lt hj]

end Sys2Proof.Laws
end

