-- ==== Sys2Proof/Laws/Channels.lean ====
section
/-!
SUPPORT. Finite channel capacities (spec/00_scope.md R13, spec/20_memory.md R78): what makes an agent wait.
Since every capacity is at least 1, an empty channel never makes its pusher wait; an empty DIN makes the engine wait.
-/

namespace Sys2Proof.Laws

open Sys2Proof Sys2Proof.Machine

/-- A host pushing into an empty CMD never waits, whatever the capacities. -/
theorem hostWaits_pushCmd_empty (c : ChannelDepths) (w : Word) {s : State} (h : s.cmd = []) :
    hostWaits c (.pushCmd w) s = false := by
  have := c.cmd.property
  simp [hostWaits, h]; omega

/-- A host pushing into an empty DIN never waits, whatever the capacities. -/
theorem hostWaits_pushDin_empty (c : ChannelDepths) (b : Byte) {s : State} (h : s.din = []) :
    hostWaits c (.pushDin b) s = false := by
  have := c.din.property
  simp [hostWaits, h]; omega

/-- Everything that makes a streaming engine wait for the host (R78). -/
theorem engineWaitsForHost_iff (c : ChannelDepths) (owed : Nat) (s : State) :
    engineWaitsForHost c owed s = true ↔
      (0 < owed ∧ s.din = []) ∨ c.dout.val ≤ s.dout.length ∨ c.rsp.val ≤ s.rsp.length := by
  simp [engineWaitsForHost, or_assoc]

/-- A command with payload left to pop waits while DIN is empty, whatever stands in the output channels (R78). -/
theorem engineWaitsForHost_din_empty (c : ChannelDepths) {owed : Nat} {s : State} (ho : 0 < owed) (hd : s.din = []) :
    engineWaitsForHost c owed s = true :=
  (engineWaitsForHost_iff c owed s).mpr (.inl ⟨ho, hd⟩)

/-- With both output channels drained, the engine waits for payload bytes and for nothing else, whatever the
capacities. -/
theorem engineWaitsForHost_drained (c : ChannelDepths) (owed : Nat) {s : State} (hd : s.dout = []) (hr : s.rsp = []) :
    engineWaitsForHost c owed s = true ↔ 0 < owed ∧ s.din = [] := by
  have := c.dout.property
  have := c.rsp.property
  rw [engineWaitsForHost_iff]
  simp only [hd, hr, List.length_nil]
  constructor
  · rintro (h | h | h)
    · exact h
    · omega
    · omega
  · exact .inl

end Sys2Proof.Laws
end

