-- ==== Sys2Proof/Laws/State.lean ====
section
/-!
SUPPORT. What each update of the state does to each field: one lemma per field per update, true by unfolding the
update, so that later proofs do not unfold records.
-/

namespace Sys2Proof.Laws

open Sys2Proof Sys2Proof.Machine

/-! ### Selecting and writing a session bank -/

@[simp] theorem session_enc (s : State) : s.session .enc = s.se := rfl
@[simp] theorem session_dec (s : State) : s.session .dec = s.sd := rfl
@[simp] theorem setSession_enc (s : State) (S : Session) : s.setSession .enc S = { s with se := S } := rfl
@[simp] theorem setSession_dec (s : State) (S : Session) : s.setSession .dec S = { s with sd := S } := rfl

@[simp] theorem session_setSession_same (s : State) (d : Dir) (S : Session) : (s.setSession d S).session d = S := by
  cases d <;> rfl

theorem session_setSession_other {d d' : Dir} (h : d' ≠ d) (s : State) (S : Session) :
    (s.setSession d S).session d' = s.session d' := by
  cases d <;> cases d' <;> first | rfl | exact absurd rfl h

@[simp] theorem setSession_session (s : State) (d : Dir) : s.setSession d (s.session d) = s := by
  cases d <;> rfl

@[simp] theorem setSession_setSession (s : State) (d : Dir) (S S' : Session) :
    (s.setSession d S).setSession d S' = s.setSession d S' := by
  cases d <;> rfl
@[simp] theorem setSession_hv (s : State) (d : Dir) (S : Session) : (s.setSession d S).hv = s.hv := by
  cases d <;> rfl
@[simp] theorem setSession_var (s : State) (d : Dir) (S : Session) : (s.setSession d S).var = s.var := by
  cases d <;> rfl
@[simp] theorem setSession_flt (s : State) (d : Dir) (S : Session) : (s.setSession d S).flt = s.flt := by
  cases d <;> rfl
@[simp] theorem setSession_key (s : State) (d : Dir) (S : Session) : (s.setSession d S).key = s.key := by
  cases d <;> rfl
@[simp] theorem setSession_cmd (s : State) (d : Dir) (S : Session) : (s.setSession d S).cmd = s.cmd := by
  cases d <;> rfl
@[simp] theorem setSession_din (s : State) (d : Dir) (S : Session) : (s.setSession d S).din = s.din := by
  cases d <;> rfl
@[simp] theorem setSession_dout (s : State) (d : Dir) (S : Session) : (s.setSession d S).dout = s.dout := by
  cases d <;> rfl
@[simp] theorem setSession_rsp (s : State) (d : Dir) (S : Session) : (s.setSession d S).rsp = s.rsp := by
  cases d <;> rfl
@[simp] theorem setSession_stream (s : State) (d : Dir) (S : Session) : (s.setSession d S).stream = s.stream := by
  cases d <;> rfl
@[simp] theorem setSession_drawn (s : State) (d : Dir) (S : Session) : (s.setSession d S).drawn = s.drawn := by
  cases d <;> rfl

/-! ### Pushing to DOUT -/

@[simp] theorem doutPush_hv (b : List Byte) (s : State) :
    (doutPush b s).hv = s.hv := rfl
@[simp] theorem doutPush_var (b : List Byte) (s : State) :
    (doutPush b s).var = s.var := rfl
@[simp] theorem doutPush_flt (b : List Byte) (s : State) :
    (doutPush b s).flt = s.flt := rfl
@[simp] theorem doutPush_key (b : List Byte) (s : State) :
    (doutPush b s).key = s.key := rfl
@[simp] theorem doutPush_se (b : List Byte) (s : State) :
    (doutPush b s).se = s.se := rfl
@[simp] theorem doutPush_sd (b : List Byte) (s : State) :
    (doutPush b s).sd = s.sd := rfl
@[simp] theorem doutPush_cmd (b : List Byte) (s : State) :
    (doutPush b s).cmd = s.cmd := rfl
@[simp] theorem doutPush_din (b : List Byte) (s : State) :
    (doutPush b s).din = s.din := rfl
@[simp] theorem doutPush_dout (b : List Byte) (s : State) :
    (doutPush b s).dout = s.dout ++ b := rfl
@[simp] theorem doutPush_rsp (b : List Byte) (s : State) :
    (doutPush b s).rsp = s.rsp := rfl
@[simp] theorem doutPush_stream (b : List Byte) (s : State) :
    (doutPush b s).stream = s.stream := rfl
@[simp] theorem doutPush_drawn (b : List Byte) (s : State) :
    (doutPush b s).drawn = s.drawn := rfl

/-! ### Pushing to RSP -/

@[simp] theorem rspPush_hv (w : Word) (s : State) :
    (rspPush w s).hv = s.hv := rfl
@[simp] theorem rspPush_var (w : Word) (s : State) :
    (rspPush w s).var = s.var := rfl
@[simp] theorem rspPush_flt (w : Word) (s : State) :
    (rspPush w s).flt = s.flt := rfl
@[simp] theorem rspPush_key (w : Word) (s : State) :
    (rspPush w s).key = s.key := rfl
@[simp] theorem rspPush_se (w : Word) (s : State) :
    (rspPush w s).se = s.se := rfl
@[simp] theorem rspPush_sd (w : Word) (s : State) :
    (rspPush w s).sd = s.sd := rfl
@[simp] theorem rspPush_cmd (w : Word) (s : State) :
    (rspPush w s).cmd = s.cmd := rfl
@[simp] theorem rspPush_din (w : Word) (s : State) :
    (rspPush w s).din = s.din := rfl
@[simp] theorem rspPush_dout (w : Word) (s : State) :
    (rspPush w s).dout = s.dout := rfl
@[simp] theorem rspPush_rsp (w : Word) (s : State) :
    (rspPush w s).rsp = s.rsp ++ [w] := rfl
@[simp] theorem rspPush_stream (w : Word) (s : State) :
    (rspPush w s).stream = s.stream := rfl
@[simp] theorem rspPush_drawn (w : Word) (s : State) :
    (rspPush w s).drawn = s.drawn := rfl

/-! ### A response in the common layout -/

@[simp] theorem respond_hv (c : Code) (arg acc : Byte) (s : State) :
    (respond c arg acc s).hv = s.hv := rfl
@[simp] theorem respond_var (c : Code) (arg acc : Byte) (s : State) :
    (respond c arg acc s).var = s.var := rfl
@[simp] theorem respond_flt (c : Code) (arg acc : Byte) (s : State) :
    (respond c arg acc s).flt = s.flt := rfl
@[simp] theorem respond_key (c : Code) (arg acc : Byte) (s : State) :
    (respond c arg acc s).key = s.key := rfl
@[simp] theorem respond_se (c : Code) (arg acc : Byte) (s : State) :
    (respond c arg acc s).se = s.se := rfl
@[simp] theorem respond_sd (c : Code) (arg acc : Byte) (s : State) :
    (respond c arg acc s).sd = s.sd := rfl
@[simp] theorem respond_cmd (c : Code) (arg acc : Byte) (s : State) :
    (respond c arg acc s).cmd = s.cmd := rfl
@[simp] theorem respond_din (c : Code) (arg acc : Byte) (s : State) :
    (respond c arg acc s).din = s.din := rfl
@[simp] theorem respond_dout (c : Code) (arg acc : Byte) (s : State) :
    (respond c arg acc s).dout = s.dout := rfl
@[simp] theorem respond_rsp (c : Code) (arg acc : Byte) (s : State) :
    (respond c arg acc s).rsp = s.rsp ++ [respWord c arg acc s] := rfl
@[simp] theorem respond_stream (c : Code) (arg acc : Byte) (s : State) :
    (respond c arg acc s).stream = s.stream := rfl
@[simp] theorem respond_drawn (c : Code) (arg acc : Byte) (s : State) :
    (respond c arg acc s).drawn = s.drawn := rfl

/-! ### Raising an error -/

@[simp] theorem raise_hv (c : Code) (arg acc : Byte) (s : State) :
    (raise c arg acc s).hv = s.hv := rfl
@[simp] theorem raise_var (c : Code) (arg acc : Byte) (s : State) :
    (raise c arg acc s).var = s.var := rfl
@[simp] theorem raise_flt (c : Code) (arg acc : Byte) (s : State) :
    (raise c arg acc s).flt = s.flt := rfl
@[simp] theorem raise_key (c : Code) (arg acc : Byte) (s : State) :
    (raise c arg acc s).key = s.key := rfl
@[simp] theorem raise_se (c : Code) (arg acc : Byte) (s : State) :
    (raise c arg acc s).se = s.se := rfl
@[simp] theorem raise_sd (c : Code) (arg acc : Byte) (s : State) :
    (raise c arg acc s).sd = s.sd := rfl
@[simp] theorem raise_cmd (c : Code) (arg acc : Byte) (s : State) :
    (raise c arg acc s).cmd = s.cmd := rfl
@[simp] theorem raise_din (c : Code) (arg acc : Byte) (s : State) :
    (raise c arg acc s).din = s.din := rfl
@[simp] theorem raise_dout (c : Code) (arg acc : Byte) (s : State) :
    (raise c arg acc s).dout = s.dout := rfl
@[simp] theorem raise_rsp (c : Code) (arg acc : Byte) (s : State) :
    (raise c arg acc s).rsp = s.rsp ++ [respWord c arg acc s] := rfl
@[simp] theorem raise_stream (c : Code) (arg acc : Byte) (s : State) :
    (raise c arg acc s).stream = s.stream := rfl
@[simp] theorem raise_drawn (c : Code) (arg acc : Byte) (s : State) :
    (raise c arg acc s).drawn = s.drawn := rfl

/-! ### An illegal word -/

@[simp] theorem raiseIllegal_hv (w : Word) (s : State) :
    (raiseIllegal w s).hv = s.hv := rfl
@[simp] theorem raiseIllegal_var (w : Word) (s : State) :
    (raiseIllegal w s).var = s.var := rfl
@[simp] theorem raiseIllegal_flt (w : Word) (s : State) :
    (raiseIllegal w s).flt = s.flt := rfl
@[simp] theorem raiseIllegal_key (w : Word) (s : State) :
    (raiseIllegal w s).key = s.key := rfl
@[simp] theorem raiseIllegal_se (w : Word) (s : State) :
    (raiseIllegal w s).se = s.se := rfl
@[simp] theorem raiseIllegal_sd (w : Word) (s : State) :
    (raiseIllegal w s).sd = s.sd := rfl
@[simp] theorem raiseIllegal_cmd (w : Word) (s : State) :
    (raiseIllegal w s).cmd = s.cmd := rfl
@[simp] theorem raiseIllegal_din (w : Word) (s : State) :
    (raiseIllegal w s).din = s.din := rfl
@[simp] theorem raiseIllegal_dout (w : Word) (s : State) :
    (raiseIllegal w s).dout = s.dout := rfl
@[simp] theorem raiseIllegal_rsp (w : Word) (s : State) :
    (raiseIllegal w s).rsp = s.rsp ++ [respWord .illegalCommand (wordTop w) 0 s] := rfl
@[simp] theorem raiseIllegal_stream (w : Word) (s : State) :
    (raiseIllegal w s).stream = s.stream := rfl
@[simp] theorem raiseIllegal_drawn (w : Word) (s : State) :
    (raiseIllegal w s).drawn = s.drawn := rfl

/-! ### A primitive failure -/

@[simp] theorem failPrimitive_hv (t : Nat) (s : State) :
    (failPrimitive t s).hv = s.hv := rfl
@[simp] theorem failPrimitive_var (t : Nat) (s : State) :
    (failPrimitive t s).var = s.var := rfl
@[simp] theorem failPrimitive_flt (t : Nat) (s : State) :
    (failPrimitive t s).flt = true := rfl
@[simp] theorem failPrimitive_key (t : Nat) (s : State) :
    (failPrimitive t s).key = s.key := rfl
@[simp] theorem failPrimitive_se (t : Nat) (s : State) :
    (failPrimitive t s).se = s.se := rfl
@[simp] theorem failPrimitive_sd (t : Nat) (s : State) :
    (failPrimitive t s).sd = s.sd := rfl
@[simp] theorem failPrimitive_cmd (t : Nat) (s : State) :
    (failPrimitive t s).cmd = s.cmd := rfl
@[simp] theorem failPrimitive_din (t : Nat) (s : State) :
    (failPrimitive t s).din = s.din := rfl
@[simp] theorem failPrimitive_dout (t : Nat) (s : State) :
    (failPrimitive t s).dout = s.dout := rfl
@[simp] theorem failPrimitive_rsp (t : Nat) (s : State) :
    (failPrimitive t s).rsp = s.rsp ++ [failureWord t] := rfl
@[simp] theorem failPrimitive_stream (t : Nat) (s : State) :
    (failPrimitive t s).stream = s.stream := rfl
@[simp] theorem failPrimitive_drawn (t : Nat) (s : State) :
    (failPrimitive t s).drawn = s.drawn := rfl

/-! ### Constructing a handle -/

@[simp] theorem construct_hv (v : Variant) (key iv : List Byte) (s : State) :
    (construct v key iv s).hv = true := rfl
@[simp] theorem construct_var (v : Variant) (key iv : List Byte) (s : State) :
    (construct v key iv s).var = v := rfl
@[simp] theorem construct_flt (v : Variant) (key iv : List Byte) (s : State) :
    (construct v key iv s).flt = s.flt := rfl
@[simp] theorem construct_key (v : Variant) (key iv : List Byte) (s : State) :
    (construct v key iv s).key = keyRegister key := rfl
@[simp] theorem construct_se (v : Variant) (key iv : List Byte) (s : State) :
    (construct v key iv s).se = seedSession iv := rfl
@[simp] theorem construct_sd (v : Variant) (key iv : List Byte) (s : State) :
    (construct v key iv s).sd = seedSession iv := rfl
@[simp] theorem construct_cmd (v : Variant) (key iv : List Byte) (s : State) :
    (construct v key iv s).cmd = s.cmd := rfl
@[simp] theorem construct_din (v : Variant) (key iv : List Byte) (s : State) :
    (construct v key iv s).din = s.din := rfl
@[simp] theorem construct_dout (v : Variant) (key iv : List Byte) (s : State) :
    (construct v key iv s).dout = s.dout := rfl
@[simp] theorem construct_rsp (v : Variant) (key iv : List Byte) (s : State) :
    (construct v key iv s).rsp = s.rsp := rfl
@[simp] theorem construct_stream (v : Variant) (key iv : List Byte) (s : State) :
    (construct v key iv s).stream = s.stream := rfl
@[simp] theorem construct_drawn (v : Variant) (key iv : List Byte) (s : State) :
    (construct v key iv s).drawn = s.drawn := rfl

/-! ### Completing a command -/

@[simp] theorem complete_hv (s : State) : (complete s).hv = s.hv := rfl
@[simp] theorem complete_var (s : State) : (complete s).var = s.var := rfl
@[simp] theorem complete_flt (s : State) : (complete s).flt = s.flt := rfl
@[simp] theorem complete_key (s : State) : (complete s).key = s.key := rfl
@[simp] theorem complete_se (s : State) : (complete s).se = s.se := rfl
@[simp] theorem complete_sd (s : State) : (complete s).sd = s.sd := rfl
@[simp] theorem complete_cmd (s : State) : (complete s).cmd = s.cmd := rfl
@[simp] theorem complete_din (s : State) : (complete s).din = s.din := rfl
@[simp] theorem complete_dout (s : State) : (complete s).dout = s.dout := rfl
@[simp] theorem complete_rsp (s : State) : (complete s).rsp = s.rsp ++ [respWord .ok 0 0 s] := rfl
@[simp] theorem complete_stream (s : State) : (complete s).stream = s.stream := rfl
@[simp] theorem complete_drawn (s : State) : (complete s).drawn = s.drawn := rfl

/-! ### Writing back a run of the XOR path -/

@[simp] theorem commitRun_hv (d : Dir) (r : XorRun) (s : State) :
    (commitRun d r s).hv = s.hv := by
  cases d <;> rfl
@[simp] theorem commitRun_var (d : Dir) (r : XorRun) (s : State) :
    (commitRun d r s).var = s.var := by
  cases d <;> rfl
@[simp] theorem commitRun_flt (d : Dir) (r : XorRun) (s : State) :
    (commitRun d r s).flt = s.flt := by
  cases d <;> rfl
@[simp] theorem commitRun_key (d : Dir) (r : XorRun) (s : State) :
    (commitRun d r s).key = s.key := by
  cases d <;> rfl
@[simp] theorem commitRun_cmd (d : Dir) (r : XorRun) (s : State) :
    (commitRun d r s).cmd = s.cmd := by
  cases d <;> rfl
@[simp] theorem commitRun_din (d : Dir) (r : XorRun) (s : State) :
    (commitRun d r s).din = s.din := by
  cases d <;> rfl
@[simp] theorem commitRun_dout (d : Dir) (r : XorRun) (s : State) :
    (commitRun d r s).dout = s.dout ++ r.out := by
  cases d <;> rfl
@[simp] theorem commitRun_rsp (d : Dir) (r : XorRun) (s : State) :
    (commitRun d r s).rsp = s.rsp := by
  cases d <;> rfl
@[simp] theorem commitRun_stream (d : Dir) (r : XorRun) (s : State) :
    (commitRun d r s).stream = s.stream := by
  cases d <;> rfl
@[simp] theorem commitRun_drawn (d : Dir) (r : XorRun) (s : State) :
    (commitRun d r s).drawn = r.drawn := by
  cases d <;> rfl
@[simp] theorem commitRun_session_same (d : Dir) (r : XorRun) (s : State) :
    (commitRun d r s).session d = r.session := by
  cases d <;> rfl

theorem commitRun_session_other {d d' : Dir} (h : d' ≠ d) (r : XorRun) (s : State) :
    (commitRun d r s).session d' = s.session d' := by
  cases d <;> cases d' <;> first | rfl | exact absurd rfl h

/-! ### STAT reads three bits -/

theorem stat_congr {s t : State} (hf : s.flt = t.flt) (hv : s.var = t.var) (hh : s.hv = t.hv) : stat s = stat t := by
  simp only [stat, hf, hv, hh]

theorem respWord_congr {s t : State} (h : stat s = stat t) (c : Code) (arg acc : Byte) :
    respWord c arg acc s = respWord c arg acc t := by
  simp only [respWord, h]

end Sys2Proof.Laws
end

