-- ==== Sys2Proof/Laws/HandleUse.lean ====
section
/-!
SUPPORT. Holding the handle of a use, and fresh residuals, depend on the registers of spec/10_state.md R30 alone, so
whatever changes only channels keeps them; and what a use becomes at a waiting engine and at an illegal word.
-/

namespace Sys2Proof.Laws

open Sys2Proof Sys2Proof.Machine

theorem holds_none (s : State) : s.Holds none ↔ s.hv = false := Iff.rfl

theorem holds_some (s : State) (u : HandleUse) : s.Holds (some u) ↔ u.HeldBy s := Iff.rfl

/-- States with the same registers hold the same handle. -/
theorem SameRegisters.holds {s t : State} (h : SameRegisters s t) {g : Option HandleUse} (hg : s.Holds g) :
    t.Holds g := by
  obtain ⟨hv, var, -, key, se, sd⟩ := h
  cases g with
  | none => exact hv.symm.trans hg
  | some u =>
    obtain ⟨valid, ivLength, variant, keyEq, enc, dec⟩ := hg
    exact ⟨hv ▸ valid, ivLength, var ▸ variant, by rw [← var, ← key]; exact keyEq, by rw [← var, ← se]; exact enc,
      by rw [← var, ← sd]; exact dec⟩

/-- States with the same registers have the same residuals. -/
theorem SameRegisters.residualsFresh {s t : State} (h : SameRegisters s t) (hs : s.ResidualsFresh) :
    t.ResidualsFresh := by
  obtain ⟨hv, var, -, key, se, sd⟩ := h
  intro ht d
  have hd := hs (hv.trans ht) d
  cases d with
  | enc => rw [session_enc] at hd ⊢; rwa [← var, ← key, ← se]
  | dec => rw [session_dec] at hd ⊢; rwa [← var, ← key, ← sd]

theorem useAfterStep_empty {s : State} (h : s.cmd = []) (t : State) (g : Option HandleUse) :
    useAfterStep s t g = g := by
  simp only [useAfterStep, h]

theorem useAfterStep_illegal {s : State} {w : Word} {rest : List Word} {e : IllegalWord} (hc : s.cmd = w :: rest)
    (hd : decode w = .error e) (t : State) (g : Option HandleUse) : useAfterStep s t g = g := by
  simp only [useAfterStep, hc, hd]

theorem useAfterStep_command {s : State} {w : Word} {rest : List Word} {i : Instr} (hc : s.cmd = w :: rest)
    (hd : decode w = .ok i) (hl : i.decl ≤ s.din.length) (t : State) (g : Option HandleUse) :
    useAfterStep s t g = useAfterCommand i s t g := by
  simp only [useAfterStep, hc, hd, if_pos hl]

theorem useAfterStep_short {s : State} {w : Word} {rest : List Word} {i : Instr} (hc : s.cmd = w :: rest)
    (hd : decode w = .ok i) (hl : s.din.length < i.decl) (t : State) (g : Option HandleUse) :
    useAfterStep s t g = g := by
  simp only [useAfterStep, hc, hd, if_neg (Nat.not_le.mpr hl)]

end Sys2Proof.Laws
end

