-- ==== Sys2Proof/Laws/Operations.lean ====
section
/-!
SUPPORT. What each shared operation can do, said once: popping the payload, the FAULTED check, fetching a command, one
step, and each command's execution on a state whose DIN holds its payload.
-/

namespace Sys2Proof.Laws

open Sys2Proof Sys2Proof.Machine

/-! ### The common checks -/

theorem popPayload_next {n : Nat} {s : State} (h : n ≤ s.din.length) (body : List Byte → State → State) :
    popPayload n s body = .next (body (s.din.take n) { s with din := s.din.drop n }) := by
  simp only [popPayload, dinPop, if_pos h]

theorem popPayload_short {n : Nat} {s : State} (h : s.din.length < n) (body : List Byte → State → State) :
    popPayload n s body = .fault .payloadIncomplete := by
  simp only [popPayload, dinPop, if_neg (Nat.not_le.mpr h)]

theorem unlessFaulted_clear {s : State} (h : s.flt = false) (body : List Byte → State → State) (p : List Byte) :
    unlessFaulted body p s = body p s := by
  simp only [unlessFaulted, h, Bool.false_eq_true, if_false]

theorem unlessFaulted_faulted {s : State} (h : s.flt = true) (body : List Byte → State → State) (p : List Byte) :
    unlessFaulted body p s = raise .faulted 0 0 s := by
  simp only [unlessFaulted, h, if_true]

/-! ### Each command on a complete payload -/

theorem exec_create {klen ivlen : Nat} {s : State} (h : klen + ivlen ≤ s.din.length) :
    exec (.create klen ivlen) s = .next (unlessFaulted (createBody klen ivlen) (s.din.take (klen + ivlen))
      { s with din := s.din.drop (klen + ivlen) }) :=
  popPayload_next h _

theorem exec_enc {len : Nat} {s : State} (h : len ≤ s.din.length) :
    exec (.enc len) s = .next (unlessFaulted (process Config.primitive .enc) (s.din.take len)
      { s with din := s.din.drop len }) :=
  popPayload_next h _

theorem exec_dec {len : Nat} {s : State} (h : len ≤ s.din.length) :
    exec (.dec len) s = .next (unlessFaulted (process Config.primitive .dec) (s.din.take len)
      { s with din := s.din.drop len }) :=
  popPayload_next h _

theorem exec_incr {s : State} (h : 16 ≤ s.din.length) :
    exec .incr s = .next (unlessFaulted incrBody (s.din.take 16) { s with din := s.din.drop 16 }) :=
  popPayload_next h _

theorem exec_status (s : State) : exec .status s = .next (complete s) := rfl

/-- What ENC and DEC do, by the bank (R145): the checks, then a run of the XOR path written back, ended by the OK or
the PRIMITIVE_FAILURE response. -/
theorem process_handle (P : Primitive) (d : Dir) (p : List Byte) {s : State} (h : s.hv = true) :
    process P d p s =
      if (xorPath (askPrimitive P s) p s.drawn (s.session d)).failed then
        failPrimitive (xorPath (askPrimitive P s) p s.drawn (s.session d)).out.length
          (commitRun d (xorPath (askPrimitive P s) p s.drawn (s.session d)) s)
      else complete (commitRun d (xorPath (askPrimitive P s) p s.drawn (s.session d)) s) := by
  simp only [process, h, if_true]

theorem process_noHandle (P : Primitive) (d : Dir) (p : List Byte) {s : State} (h : s.hv = false) :
    process P d p s = raise .noHandle 0 0 s := by
  simp only [process, h, Bool.false_eq_true, if_false]

/-- What CREATE does after the common checks, by the three cases of R170. -/
theorem createBody_cases (klen ivlen : Nat) (p : List Byte) (s : State) :
    (selectMode klen = none ∧ createBody klen ivlen p s = raise .invalidKeyLength (BitVec.ofNat 8 klen) 0x03 s) ∨
    (∃ v, selectMode klen = some v ∧ ivlen ≠ 16 ∧
      createBody klen ivlen p s = raise .invalidIvLength (BitVec.ofNat 8 ivlen) 0x01 s) ∨
    (∃ v, selectMode klen = some v ∧ ivlen = 16 ∧
      createBody klen ivlen p s = complete (construct v (keySlice klen p) (ivSlice klen ivlen p) s)) := by
  unfold createBody
  cases hm : selectMode klen with
  | none => exact .inl ⟨rfl, rfl⟩
  | some v =>
    by_cases hi : ivlen = 16
    · exact .inr (.inr ⟨v, rfl, hi, if_pos hi⟩)
    · exact .inr (.inl ⟨v, rfl, hi, if_neg hi⟩)

/-- A run of the engine's XOR path, as ENC and DEC start it on the payload p (R145). -/
abbrev runOf (d : Dir) (p : List Byte) (s : State) : XorRun :=
  xorPath (askPrimitive Config.primitive s) p s.drawn (s.session d)

/-- ENC and DEC with a handle and no fault: a run of the XOR path, written back, and the response its end calls for. -/
theorem execEnc_run {len : Nat} {s : State} (hv : s.hv = true) (hf : s.flt = false) (hl : len ≤ s.din.length) :
    exec (.enc len) s = .next (
      if (runOf .enc (s.din.take len) s).failed then
        failPrimitive (runOf .enc (s.din.take len) s).out.length
          (commitRun .enc (runOf .enc (s.din.take len) s) { s with din := s.din.drop len })
      else complete (commitRun .enc (runOf .enc (s.din.take len) s) { s with din := s.din.drop len })) := by
  rw [exec_enc hl, unlessFaulted_clear (by exact hf), process_handle _ _ _ (by exact hv)]
  rfl

theorem execDec_run {len : Nat} {s : State} (hv : s.hv = true) (hf : s.flt = false) (hl : len ≤ s.din.length) :
    exec (.dec len) s = .next (
      if (runOf .dec (s.din.take len) s).failed then
        failPrimitive (runOf .dec (s.din.take len) s).out.length
          (commitRun .dec (runOf .dec (s.din.take len) s) { s with din := s.din.drop len })
      else complete (commitRun .dec (runOf .dec (s.din.take len) s) { s with din := s.din.drop len })) := by
  rw [exec_dec hl, unlessFaulted_clear (by exact hf), process_handle _ _ _ (by exact hv)]
  rfl

/-- A legal command answers a next state whenever its payload is in DIN. -/
theorem exec_next (i : Instr) {s : State} (h : i.decl ≤ s.din.length) : ∃ t, exec i s = .next t := by
  cases i with
  | create => exact ⟨_, exec_create h⟩
  | enc => exact ⟨_, exec_enc h⟩
  | dec => exact ⟨_, exec_dec h⟩
  | incr => exact ⟨_, exec_incr h⟩
  | status => exact ⟨_, exec_status _⟩

/-! ### Fetching and stepping -/

theorem fetch_nil {s : State} (h : s.cmd = []) : fetch s = .waiting := by
  simp only [fetch, h]

theorem fetch_illegal {s : State} {w : Word} {rest : List Word} {e : IllegalWord} (hc : s.cmd = w :: rest)
    (hd : decode w = .error e) : fetch s = .illegal w { s with cmd := rest } := by
  simp only [fetch, hc, hd]

theorem fetch_command {s : State} {w : Word} {rest : List Word} {i : Instr} (hc : s.cmd = w :: rest)
    (hd : decode w = .ok i) (hl : i.decl ≤ s.din.length) : fetch s = .command i { s with cmd := rest } := by
  simp only [fetch, hc, hd, if_pos hl]

theorem fetch_short {s : State} {w : Word} {rest : List Word} {i : Instr} (hc : s.cmd = w :: rest)
    (hd : decode w = .ok i) (hl : s.din.length < i.decl) : fetch s = .waiting := by
  simp only [fetch, hc, hd, if_neg (Nat.not_le.mpr hl)]

/-- Everything a step can be: waiting, an illegal word, or a legal command with its payload in DIN. -/
theorem step_cases (s : State) :
    (fetch s = .waiting ∧ step s = .next s) ∨
    (∃ w rest e, s.cmd = w :: rest ∧ decode w = .error e ∧ step s = .next (raiseIllegal w { s with cmd := rest })) ∨
    (∃ w rest i, s.cmd = w :: rest ∧ decode w = .ok i ∧ i.decl ≤ s.din.length ∧
      step s = exec i { s with cmd := rest }) := by
  cases hc : s.cmd with
  | nil => exact .inl ⟨fetch_nil hc, by simp only [step, fetch_nil hc]⟩
  | cons w rest =>
    cases hd : decode w with
    | error e => exact .inr (.inl ⟨w, rest, e, rfl, hd, by simp only [step, fetch_illegal hc hd]⟩)
    | ok i =>
      by_cases hl : i.decl ≤ s.din.length
      · exact .inr (.inr ⟨w, rest, i, rfl, hd, hl, by simp only [step, fetch_command hc hd hl]⟩)
      · have hf := fetch_short hc hd (Nat.not_le.mp hl)
        exact .inl ⟨hf, by simp only [step, hf]⟩

end Sys2Proof.Laws
end

