-- ==== Sys2Proof/Laws/PerInstr.lean ====
section
/-!
SUPPORT. The family EncodedRow: the word the encoder writes fits the command's row of the opcode map, whatever the
operands (spec/30_encoding.md R86).
-/

namespace Sys2Proof.Laws.EncodedRow

open Sys2Proof

/-- The row of the opcode map of each command (R86). -/
def row : Instr → OpcodeRow
  | .create _ _ => { mnemonic := "CREATE", pattern := 0x10000000, mask := 0xFFFF0000 }
  | .enc _ => { mnemonic := "ENC", pattern := 0x20000000, mask := 0xFF000000 }
  | .dec _ => { mnemonic := "DEC", pattern := 0x21000000, mask := 0xFF000000 }
  | .incr => { mnemonic := "INCR", pattern := 0x30000000, mask := 0xFFFFFFFF }
  | .status => { mnemonic := "STATUS", pattern := 0x40000000, mask := 0xFFFFFFFF }

/-- The encoded word fits the command's row, and the row is one of the opcode map's. -/
def Statement (i : Instr) : Prop := row i ∈ opcodeMap ∧ (row i).fits (encode i) = true

/-- A word made of a head and a tail, masked to its head. -/
theorem mask_head16 (a b : BitVec 16) : (a ++ b) &&& (0xFFFF#16 ++ 0#16) = a ++ 0#16 := by
  rw [BitVec.and_append, show (0xFFFF#16) = BitVec.allOnes 16 from rfl, BitVec.and_allOnes, BitVec.and_zero]

theorem mask_head8 (a : BitVec 8) (b : BitVec 24) : (a ++ b) &&& (0xFF#8 ++ 0#24) = a ++ 0#24 := by
  rw [BitVec.and_append, show (0xFF#8) = BitVec.allOnes 8 from rfl, BitVec.and_allOnes, BitVec.and_zero]

theorem create (klen ivlen : Nat) : Statement (.create klen ivlen) := by
  refine ⟨by simp [row, opcodeMap], ?_⟩
  have he : encode (.create klen ivlen) = (0x1000#16 ++ (BitVec.ofNat 8 klen ++ BitVec.ofNat 8 ivlen) : Word) :=
    BitVec.append_assoc
  have hm := mask_head16 0x1000#16 (BitVec.ofNat 8 klen ++ BitVec.ofNat 8 ivlen)
  exact beq_iff_eq.mpr (he ▸ hm)

theorem enc (len : Nat) : Statement (.enc len) :=
  ⟨by simp [row, opcodeMap], beq_iff_eq.mpr (mask_head8 0x20#8 (BitVec.ofNat 24 len))⟩

theorem dec (len : Nat) : Statement (.dec len) :=
  ⟨by simp [row, opcodeMap], beq_iff_eq.mpr (mask_head8 0x21#8 (BitVec.ofNat 24 len))⟩

theorem incr : Statement .incr := ⟨by simp [row, opcodeMap], by decide⟩

theorem status : Statement .status := ⟨by simp [row, opcodeMap], by decide⟩

end Sys2Proof.Laws.EncodedRow
end

