-- ==== Sys2Proof/Laws/Responses.lean ====
section
/-!
SUPPORT. The fields of a response word: its CODE and its STAT, and the OK response as STAT alone
(spec/30_encoding.md R93 to R95).
-/

namespace Sys2Proof.Laws

open Sys2Proof Sys2Proof.Machine

/-- A concatenation as a number. -/
theorem toNat_append {n m : Nat} (a : BitVec n) (b : BitVec m) : (a ++ b).toNat = a.toNat * 2 ^ m + b.toNat := by
  rw [BitVec.toNat_append, Nat.shiftLeft_eq, Nat.mul_comm, Nat.two_pow_add_eq_or_of_lt b.isLt]

/-- CODE of a response in the common layout. -/
theorem respWord_code (c : Code) (arg acc : Byte) (s : State) :
    (respWord c arg acc s).extractLsb' 24 8 = codeBits c := by
  apply BitVec.eq_of_toNat_eq
  have h1 := arg.isLt
  have h2 := acc.isLt
  have h3 := (stat s).isLt
  have h4 := (codeBits c).isLt
  rw [BitVec.extractLsb'_toNat, respWord, toNat_append, toNat_append, toNat_append, Nat.shiftRight_eq_div_pow]
  omega

/-- STAT of a response in the common layout. -/
theorem respWord_stat (c : Code) (arg acc : Byte) (s : State) :
    (respWord c arg acc s).extractLsb' 0 8 = stat s := by
  apply BitVec.eq_of_toNat_eq
  have h3 := (stat s).isLt
  rw [BitVec.extractLsb'_toNat, respWord, toNat_append, toNat_append, toNat_append, Nat.shiftRight_eq_div_pow]
  omega

/-- CODE of a failure response. -/
theorem failureWord_code (t : Nat) : (failureWord t).extractLsb' 24 8 = 0x05#8 := by
  apply BitVec.eq_of_toNat_eq
  have h : (codeBits .primitiveFailure).toNat = 5 := rfl
  rw [BitVec.extractLsb'_toNat, failureWord, toNat_append, Nat.shiftRight_eq_div_pow, h, BitVec.toNat_ofNat]
  simp only [BitVec.toNat_ofNat]
  omega

/-- The OK response is STAT in the low byte and zero above. -/
theorem respWord_ok (s : State) : respWord .ok 0 0 s = 0x000000#24 ++ stat s := by
  simp only [respWord, codeBits]
  congr 1

/-- Distinct codes have distinct values, all at most 6 (R94). -/
theorem codeBits_le (c : Code) : (codeBits c).toNat ≤ 6 := by
  cases c <;> decide

theorem codeBits_inj {c c' : Code} (h : codeBits c = codeBits c') : c = c' := by
  revert h
  cases c <;> cases c' <;> decide

end Sys2Proof.Laws
end

