-- ==== Sys2Proof/Laws/XorPath.lean ====
section
/-!
SUPPORT. The XOR path: its offset bound, the length of its output, and that a payload may be cut anywhere
(spec/43_session.md R145, R147, R152).
-/

namespace Sys2Proof.Laws

open Sys2Proof Sys2Proof.Machine

variable {ask : Nat → Block → Option Block}

/-! ### The primitive attached to the engine -/

theorem askPrimitive_ok {s : State} {n : Nat} (h : Config.primFails s.stream n = false) (block : Block) :
    askPrimitive Config.primitive s n block = some (Config.blockEncrypt s.var (keyBytes s.var s.key) block) := by
  simp [askPrimitive, Config.primitive, h]

theorem askPrimitive_fail {s : State} {n : Nat} (h : Config.primFails s.stream n = true) (block : Block) :
    askPrimitive Config.primitive s n block = none := by
  simp [askPrimitive, Config.primitive, h]

/-- The primitive's answers depend on VAR, KEY and the draw stream of the state alone (R137). -/
theorem askPrimitive_congr (P : Primitive) {s t : State} (hs : s.stream = t.stream) (hv : s.var = t.var)
    (hk : s.key = t.key) : askPrimitive P s = askPrimitive P t := by
  funext n block
  simp only [askPrimitive, hs, hv, hk]

/-! ### One byte -/

/-- Everything `refill` can do (R140). -/
theorem refill_cases (ask : Nat → Block → Option Block) (n : Nat) (S : Session) :
    (S.off ≠ 16 ∧ refill ask n S = some (S, n)) ∨
    (S.off = 16 ∧ ask n (bytes128 S.ctr) = none ∧ refill ask n S = none) ∨
    (∃ b, S.off = 16 ∧ ask n (bytes128 S.ctr) = some b ∧
      refill ask n S = some ({ ctr := inc S.ctr, ks := b, off := 0 }, n + 1)) := by
  by_cases h : S.off = 16
  · cases ha : ask n (bytes128 S.ctr) with
    | none => exact .inr (.inl ⟨h, rfl, by simp only [refill, nextBlock, if_pos h, ha]⟩)
    | some b => exact .inr (.inr ⟨b, h, rfl, by simp only [refill, nextBlock, if_pos h, ha]⟩)
  · exact .inl ⟨h, by simp only [refill, if_neg h]⟩

/-- A session that `refill` answers has a key-stream byte left. -/
theorem refill_off_lt {n m : Nat} {S S' : Session} (h : refill ask n S = some (S', m)) : S'.off.val < 16 := by
  rcases refill_cases ask n S with ⟨ho, hr⟩ | ⟨_, _, hr⟩ | ⟨b, _, _, hr⟩ <;> rw [hr] at h
  · cases h; exact Nat.lt_of_le_of_ne (Nat.le_of_lt_succ S.off.isLt) fun he => ho (Fin.ext he)
  · cases h
  · cases h; exact Nat.zero_lt_succ 15

theorem useByte_off {S : Session} (h : S.off.val < 16) : (useByte S).off.val = S.off.val + 1 :=
  Nat.mod_eq_of_lt (by omega)

@[simp] theorem useByte_ctr (S : Session) : (useByte S).ctr = S.ctr := rfl
@[simp] theorem useByte_ks (S : Session) : (useByte S).ks = S.ks := rfl

/-! ### The loop -/

@[simp] theorem emit_out (b : Byte) (r : XorRun) : (emit b r).out = b :: r.out := rfl
@[simp] theorem emit_session (b : Byte) (r : XorRun) : (emit b r).session = r.session := rfl
@[simp] theorem emit_drawn (b : Byte) (r : XorRun) : (emit b r).drawn = r.drawn := rfl
@[simp] theorem emit_failed (b : Byte) (r : XorRun) : (emit b r).failed = r.failed := rfl

@[simp] theorem xorPath_nil (n : Nat) (S : Session) :
    xorPath ask [] n S = { out := [], session := S, drawn := n, failed := false } := rfl

theorem xorPath_cons_fail {n : Nat} {S : Session} (h : refill ask n S = none) (b : Byte) (p : List Byte) :
    xorPath ask (b :: p) n S = { out := [], session := S, drawn := n + 1, failed := true } := by
  simp only [xorPath, h]

theorem xorPath_cons_some {n m : Nat} {S S' : Session} (h : refill ask n S = some (S', m)) (b : Byte) (p : List Byte) :
    xorPath ask (b :: p) n S = emit (b ^^^ keyByte S') (xorPath ask p m (useByte S')) := by
  simp only [xorPath, h]

/-- A run puts out no more bytes than it takes in, and as many exactly when no invocation fails (R147, R196). -/
theorem xorPath_length (ask : Nat → Block → Option Block) (p : List Byte) (n : Nat) (S : Session) :
    if (xorPath ask p n S).failed then (xorPath ask p n S).out.length < p.length
    else (xorPath ask p n S).out.length = p.length := by
  induction p generalizing n S with
  | nil => simp
  | cons b p ih =>
    cases hr : refill ask n S with
    | none => simp [xorPath_cons_fail hr]
    | some a =>
      obtain ⟨S', m⟩ := a
      have hi := ih m (useByte S')
      rw [xorPath_cons_some hr]
      split <;> rename_i hf <;> rw [emit_failed] at hf <;> simp [hf] at hi ⊢ <;> omega

/-- Run on a payload in two parts: the second part continues from where the first ended, unless the first failed. -/
def joinRuns (r : XorRun) (next : Nat → Session → XorRun) : XorRun :=
  if r.failed then r else { next r.drawn r.session with out := r.out ++ (next r.drawn r.session).out }

theorem xorPath_append (ask : Nat → Block → Option Block) (p q : List Byte) (n : Nat) (S : Session) :
    xorPath ask (p ++ q) n S = joinRuns (xorPath ask p n S) (xorPath ask q) := by
  induction p generalizing n S with
  | nil => simp [joinRuns]
  | cons b p ih =>
    cases hr : refill ask n S with
    | none => simp [List.cons_append, xorPath_cons_fail hr, joinRuns]
    | some a =>
      obtain ⟨S', m⟩ := a
      rw [List.cons_append, xorPath_cons_some hr, xorPath_cons_some hr, ih]
      by_cases hf : (xorPath ask p m (useByte S')).failed <;> simp [joinRuns, hf, emit]

/-- A run leaves a session with at least one byte of its block used, if it began so (R39). -/
theorem xorPath_off_pos (p : List Byte) (n : Nat) (S : Session) (h : 1 ≤ S.off.val) :
    1 ≤ (xorPath ask p n S).session.off.val := by
  induction p generalizing n S with
  | nil => simpa using h
  | cons b p ih =>
    cases hr : refill ask n S with
    | none => simpa [xorPath_cons_fail hr] using h
    | some a =>
      obtain ⟨S', m⟩ := a
      rw [xorPath_cons_some hr]
      exact ih m (useByte S') (by rw [useByte_off (refill_off_lt hr)]; omega)

end Sys2Proof.Laws
end

