-- ==== Sys2Proof/Tests/Slice0.lean ====
section
/-!
SUPPORT. Tests. Expected values come from spec/95_test_vectors.md or from the encodings of spec/30_encoding.md; each
test names its source. The tests named test_witness_ show states and operands that meet the hypotheses of a statement
in Certificates/Slice0/Obligations.lean.
-/

namespace Sys2Proof.Tests

open Sys2Proof Sys2Proof.Machine

/-! ### Ill-formed commands (R96) -/

theorem test_illformed_klen : (Instr.create 256 16).wellFormed = false := by decide
theorem test_illformed_ivlen : (Instr.create 16 256).wellFormed = false := by decide
theorem test_illformed_enc_len : (Instr.enc 16777216).wellFormed = false := by decide
theorem test_illformed_dec_len : (Instr.dec 16777216).wellFormed = false := by decide
theorem test_wellformed_limits : (Instr.create 255 255).wellFormed ∧ (Instr.enc 16777215).wellFormed := by decide

/-! ### Words written bit by bit (R82 to R84, R86) -/

/-- Format C: 0001, twelve zeros, KLEN = 00100000, IVLEN = 00010000. -/
theorem test_decode_create : decode 0b0001_000000000000_00100000_00010000#32 = .ok (.create 32 16) := by decide

/-- Format P: 0010, 000, DIR = 0, LEN = 5. -/
theorem test_decode_enc : decode 0b0010_000_0_000000000000000000000101#32 = .ok (.enc 5) := by decide

/-- Format P: 0010, 000, DIR = 1, LEN with its top bit set. -/
theorem test_decode_dec : decode 0b0010_000_1_100000000000000000000001#32 = .ok (.dec 8388609) := by decide

/-- Format N: 0011 and zeros. -/
theorem test_decode_incr : decode 0b0011_0000000000000000000000000000#32 = .ok .incr := by decide

/-- Format N: 0100 and zeros. -/
theorem test_decode_status : decode 0b0100_0000000000000000000000000000#32 = .ok .status := by decide

/-- Vectors 2.7, 2.2: reserved opcodes and reserved bits. -/
theorem test_decode_illegal :
    decode 0x00000000 = .error .reservedOpcode ∧ decode 0xF0000000 = .error .reservedOpcode ∧
    decode 0x22000000 = .error .reservedBits ∧ decode 0x30000001 = .error .reservedBits ∧
    decode 0x10011010 = .error .reservedBits := by decide

theorem test_decodeTableWord : decodeTableWord 32 0x21000019 = some (.dec 25) ∧ decodeTableWord 32 0 = none := by decide

/-! ### Small states -/

/-- The responses a step or a command leaves in RSP. -/
def responses : Host.Outcome State Fault Refusal → List Word
  | .next t => t.rsp
  | .fault _ => []
  | .refused _ => []

/-- The bytes a step or a command leaves in DOUT. -/
def outBytes : Host.Outcome State Fault Refusal → List Byte
  | .next t => t.dout
  | .fault _ => []
  | .refused _ => []

/-- A V128 handle just created with key 00×16 and IV 000102…0e0f (vectors 2.4). -/
def handle : State :=
  { State.reset with
    hv := true,
    se := seedSession ((List.range 16).map (BitVec.ofNat 8 ·)),
    sd := seedSession ((List.range 16).map (BitVec.ofNat 8 ·)) }

/-- A handle whose sessions hold a residual of 13 bytes. -/
def residual : State :=
  { handle with
    se := { ctr := 1, ks := bytes128 0x000102030405060708090a0b0c0d0e0f, off := 3 },
    sd := { ctr := 1, ks := bytes128 0x000102030405060708090a0b0c0d0e0f, off := 3 },
    din := [0x48, 0x65, 0x6c] }

/-- A faulted engine with its V128 handle. -/
def faulted : State := { handle with flt := true, din := zeros 40 }

/-- BLOCK_ENCRYPT(v, k, b) = b, failing at the invocations listed (spec/95_test_vectors.md section 0). -/
def ident (bad : List Nat) : Primitive where
  encrypt := fun _ _ b => b
  fails := fun _ n => bad.contains n

/-! ### INCR (vectors 2.1) -/

theorem test_incr_wraps :
    outBytes (exec .incr { State.reset with din := List.replicate 16 0xff }) = zeros 16 := by decide

theorem test_incr_carries :
    outBytes (exec .incr { State.reset with din := (bytes128 0x00ffffffffffffffffffffffffffffff).toList }) =
      (bytes128 0x01000000000000000000000000000000).toList := by decide

/-! ### CREATE (vectors 2.2) and STATUS (vectors 2.9) -/

theorem test_create_v256 :
    responses (step { State.reset with cmd := [0x10002010], din := zeros 48 }) = [0x00000003] := by decide

/-- `CREATE 5, 3`: both lengths are bad, the key is reported. -/
theorem test_create_key_first :
    responses (step { State.reset with cmd := [0x10000503], din := zeros 8 }) = [0x01050300] := by decide

/-- Program P2's `CREATE 16, 17`, on a V128 handle: STAT is the surviving handle's. -/
theorem test_create_iv_length : responses (exec (.create 16 17) { handle with din := zeros 33 }) = [0x02110101] := by
  decide

/-- The IV's first byte is the counter's most significant (R62). -/
theorem test_create_seeds_counter : handle.se.ctr = 0x000102030405060708090a0b0c0d0e0f := by decide

theorem test_status_faulted : responses (exec .status faulted) = [0x00000005] := by decide

/-! ### ENC and DEC with IDENT -/

/-- Vector 2.4.1: the counter advances when the block is generated. -/
theorem test_enc_first_block :
    (process (ident []) .enc (zeros 3) handle).dout = [0x00, 0x01, 0x02] ∧
    (process (ident []) .enc (zeros 3) handle).se.ctr = 0x000102030405060708090a0b0c0d0e10 ∧
    (process (ident []) .enc (zeros 3) handle).se.off = 3 := by decide

/-- Vectors 2.3, 2.4.3: 17 bytes take two blocks and leave 15 bytes of block 1, which begins with 00 and ends with 10. -/
theorem test_enc_two_blocks :
    (process (ident []) .enc (zeros 17) handle).dout.drop 15 = [0x0f, 0x00] ∧
    (process (ident []) .enc (zeros 17) handle).se =
      { ctr := 0x000102030405060708090a0b0c0d0e11, ks := bytes128 0x000102030405060708090a0b0c0d0e10, off := 1 } ∧
    (process (ident []) .enc (zeros 17) handle).drawn = 2 := by decide

/-- Vector 2.4.6: DEC of 48646e6f6b gives "Hello" and leaves SE alone. -/
theorem test_dec_hello :
    (process (ident []) .dec [0x48, 0x64, 0x6e, 0x6f, 0x6b] handle).dout = [0x48, 0x65, 0x6c, 0x6c, 0x6f] ∧
    (process (ident []) .dec [0x48, 0x64, 0x6e, 0x6f, 0x6b] handle).se = handle.se := by decide

/-- Vector 2.8.1: the second invocation fails after 16 bytes. -/
theorem test_enc_failure :
    (process (ident [1]) .enc (zeros 20) handle).dout = (bytes128 0x000102030405060708090a0b0c0d0e0f).toList ∧
    (process (ident [1]) .enc (zeros 20) handle).rsp = [0x05000010] ∧
    (process (ident [1]) .enc (zeros 20) handle).flt = true ∧
    (process (ident [1]) .enc (zeros 20) handle).se.off = 16 := by decide

/-- Vector 2.8.2: a failure at the first byte leaves the session as it was. -/
theorem test_dec_failure_at_once :
    (process (ident [0]) .dec (zeros 7) handle).rsp = [0x05000000] ∧
    (process (ident [0]) .dec (zeros 7) handle).sd = handle.sd := by decide

/-- Vector 2.7: `ENC 4` and `DEC 0` without a handle. -/
theorem test_no_handle :
    responses (exec (.enc 4) { State.reset with din := [0xde, 0xad, 0xbe, 0xef] }) = [0x03000000] ∧
    responses (exec (.dec 0) State.reset) = [0x03000000] := by decide

/-- Vector 2.8.1: while faulted, `DEC 1` answers FAULTED. -/
theorem test_dec_faulted : responses (exec (.dec 1) faulted) = [0x06000005] := by decide

/-- Vector 2.8.1: an illegal word outranks the fault. -/
theorem test_illegal_outranks_fault : responses (step { faulted with cmd := [0x00000000] }) = [0x04000005] := by decide

/-! ### Placing a command -/

theorem test_withFetchWord : responses (step (State.reset.withFetchWord 32 0x30000000)) = [0x00000000] := by decide

/-! ### Witnesses: hypotheses that are met -/

theorem test_witness_DecodeUndoesEncode :
    (Instr.create 255 0).wellFormed = true ∧ (Instr.dec 16777215).wellFormed = true := by decide

theorem test_witness_EncodeUndoesDecode : decode 0x1000FFFF = .ok (.create 255 255) := by decide

theorem test_witness_ReservedFieldsAreIllegal :
    (wordOpc 0x18000000 = 0x1 ∧ (0x18000000 : Word).extractLsb' 16 12 ≠ 0) ∧
    (wordOpc 0x28000000 = 0x2 ∧ (0x28000000 : Word).extractLsb' 25 3 ≠ 0) ∧
    (wordOpc 0x30000001 = 0x3 ∧ (0x30000001 : Word).extractLsb' 0 28 ≠ 0) ∧
    (wordOpc 0x48000000 = 0x4 ∧ (0x48000000 : Word).extractLsb' 0 28 ≠ 0) ∧
    wordOpc 0x00000000 = 0x0 ∧ 0x5 ≤ wordOpc 0x50000000 ∧ 0x5 ≤ wordOpc 0xF0000000 := by decide

/-- The payload is exactly what the command declares. -/
theorem test_witness_StepRunsDecodedInstruction :
    ({ residual with cmd := [0x20000003] } : State).cmd = 0x20000003 :: [] ∧ decode 0x20000003 = .ok (.enc 3) ∧
    (Instr.enc 3).decl ≤ residual.din.length := by decide

/-- One byte short, and CMD empty. -/
theorem test_witness_StepWaitsForCommandAndPayload :
    (State.reset.cmd = []) ∧ (({ residual with cmd := [0x20000004] } : State).cmd = 0x20000004 :: [] ∧
    decode 0x20000004 = .ok (.enc 4) ∧ residual.din.length < (Instr.enc 4).decl) := by decide

theorem test_witness_IllegalWordAnswersIllegalCommand :
    ({ faulted with cmd := [0x22000000] } : State).cmd = 0x22000000 :: [] ∧
    ¬ ∃ r ∈ opcodeMap, (0x22000000 : Word) &&& r.mask = r.pattern := by decide

/-- A legal word with its payload, and an illegal word with none. -/
theorem test_witness_CommandPopsDeclaredPayload :
    declWord 0x20000003 ≤ residual.din.length ∧ declWord 0x00000000 ≤ State.reset.din.length ∧
    decode 0x10000503 = .ok (.create 5 3) ∧ decode 0x21000003 = .ok (.dec 3) ∧ decode 0x30000000 = .ok .incr ∧
    decode 0x40000000 = .ok .status ∧ decode 0x00000000 = .error .reservedOpcode := by decide

/-- A response with STAT. -/
theorem test_witness_ResponseCarriesCodeAndStat :
    ({ State.reset with cmd := [0x40000000] } : State).cmd = 0x40000000 :: [] ∧
    declWord 0x40000000 ≤ State.reset.din.length ∧ ((0x00000000 : Word).extractLsb' 24 8 ≠ 0x05#8) := by decide

theorem test_witness_invariant_reset : State.reset.Inv :=
  ⟨by decide, by decide, by decide, by decide, by decide⟩

/-- A faulted V256 handle in the middle of a block meets the invariant. -/
theorem test_witness_invariant_faulted : ({ residual with var := .v256, flt := true } : State).Inv :=
  ⟨by decide, by decide, by decide, by decide, by decide⟩

theorem test_witness_FaultedEngineRefusesCommands :
    faulted.flt = true ∧ (Instr.create 16 16) ≠ .status ∧ (Instr.create 16 16).decl ≤ faulted.din.length ∧
    (Instr.enc 40).decl ≤ faulted.din.length ∧ (Instr.dec 0).decl ≤ faulted.din.length ∧
    Instr.incr.decl ≤ faulted.din.length := by decide

/-- A step from a faulted state. -/
theorem test_witness_fault_step : faulted.flt = true ∧ step faulted = .next faulted := ⟨rfl, rfl⟩

theorem test_witness_OnlyResetClearsHandleAndFault :
    runEvent (.host (.pushDin 7)) faulted = some ([], { faulted with din := zeros 40 ++ [7] }) ∧
    runEvent .engine faulted = some ([], faulted) := ⟨rfl, rfl⟩

theorem test_witness_ModeSelectorAcceptsTwoLengths : (24 : Nat) ≠ 16 ∧ (24 : Nat) ≠ 32 := by decide

/-- Both key lengths, with exactly the payload and with a handle already there. -/
theorem test_witness_CreateConstructsHandle :
    ({ residual with din := zeros 32 } : State).flt = false ∧ 16 + 16 ≤ (zeros 32).length ∧
    ({ State.reset with din := zeros 48 } : State).flt = false ∧ 32 + 16 ≤ (zeros 48).length := by decide

/-- The lengths next to the accepted ones, both ends of the field, and a bad IV length too. -/
theorem test_witness_CreateRejectsKeyLength :
    State.reset.flt = false ∧ 0 + 0 ≤ State.reset.din.length ∧ ((0 : Nat) ≠ 16 ∧ (0 : Nat) ≠ 32) ∧
    ((17 : Nat) ≠ 16 ∧ (17 : Nat) ≠ 32) ∧ ((255 : Nat) ≠ 16 ∧ (255 : Nat) ≠ 32) ∧
    responses (exec (.create 17 15) { handle with din := zeros 32 }) = [0x01110301] := by decide

/-- A command that answers with CODE 0x01. -/
theorem test_witness_key_length_code :
    exec (.create 0 0) State.reset = .next { State.reset with rsp := [0x01000300] } ∧
    (0x01000300 : Word).extractLsb' 24 8 = 0x01#8 := ⟨rfl, by decide⟩

theorem test_witness_CreateRejectsIvLength :
    ({ handle with din := zeros 32 } : State).flt = false ∧ 16 + 0 ≤ (zeros 32).length ∧ (15 : Nat) ≠ 16 ∧
    16 + 15 ≤ (zeros 32).length ∧ 32 + 0 ≤ (zeros 32).length := by decide

/-- A CREATE that answers another code than OK. -/
theorem test_witness_FailedCreateKeepsRegisters :
    24 + 16 ≤ faulted.din.length ∧ responses (exec (.create 24 16) faulted) = [0x06000005] ∧
    (0x06000005 : Word).extractLsb' 24 8 ≠ 0x00#8 := by decide

/-- Two engines with different pasts and one payload. -/
theorem test_witness_CreateForgetsEarlierHandle :
    ({ residual with din := zeros 32 } : State).flt = false ∧ ({ State.reset with din := zeros 40 } : State).flt = false ∧
    16 + 16 ≤ (zeros 32).length ∧ (zeros 32).take 32 = (zeros 40).take 32 := by decide

theorem test_witness_CreateStartsKeyStreamAtIv :
    ({ State.reset with din := zeros 48 } : State).flt = false ∧ 32 + 16 ≤ (zeros 48).length ∧
    16 + 16 ≤ (zeros 48).length := by decide

theorem test_witness_ProcessWithoutHandle :
    ({ State.reset with din := zeros 4 } : State).hv = false ∧ ({ State.reset with din := zeros 4 } : State).flt = false ∧
    4 ≤ (zeros 4).length := by decide

/-- ZeroLengthIsNoOp: with a handle and without. -/
theorem test_witness_ZeroLengthIsNoOp : handle.flt = false ∧ State.reset.flt = false := by decide

/-- ResidualServesShortCommand, for both banks, at the whole residual too. -/
theorem test_witness_ResidualServesShortCommand :
    residual.hv = true ∧ residual.flt = false ∧ 3 ≤ residual.din.length ∧
    3 ≤ resCount (residual.session .enc) ∧ 3 ≤ resCount (residual.session .dec) ∧
    ({ residual with din := zeros 13 } : State).hv = true ∧ 13 ≤ resCount (residual.session .enc) := by decide

/-- ProcessClosedForm, FailureIsShorterSuccess, BlocksPerCommand: a command that needs blocks, and one that needs
none. -/
theorem test_witness_process_with_handle :
    ({ residual with din := zeros 40 } : State).hv = true ∧ ({ residual with din := zeros 40 } : State).flt = false ∧
    40 ≤ (zeros 40).length ∧ blocksNeeded (resCount residual.se) 40 = 2 ∧
    blocksNeeded (resCount residual.se) 13 = 0 := by decide

/-- BlocksPerCommand's inner premise: a command that ends without a fault. -/
theorem test_witness_no_fault_after :
    ∃ t, exec (.enc 3) residual = .next t ∧ t.flt = false ∧ t.dout = [0x4b, 0x61, 0x69] :=
  ⟨_, rfl, by decide, by decide⟩

theorem test_witness_OtherBankUntouched : Dir.dec ≠ Dir.enc ∧ 3 ≤ residual.din.length := by decide

/-- ProcessFrame: a next state, and its last clause without a handle. -/
theorem test_witness_ProcessFrame :
    (∃ t, exec (Dir.instr .enc 3) residual = .next t) ∧ (∃ t, exec (Dir.instr .dec 0) State.reset = .next t) ∧
    State.reset.hv = false :=
  ⟨⟨_, rfl⟩, ⟨_, rfl⟩, rfl⟩

theorem test_witness_ChunkInvariance : [1, 0, 2].sum ≤ residual.din.length := by decide

/-- DecryptInvertsEncrypt: both sessions at one place, and both commands end without a fault. -/
theorem test_witness_DecryptInvertsEncrypt :
    residual.hv = true ∧ residual.flt = false ∧ residual.se = residual.sd ∧ 3 ≤ residual.din.length ∧
    ∃ t, exec (.enc 3) residual = .next t ∧ ∃ t', exec (.dec 3) { t with din := t.dout } = .next t' ∧ t'.flt = false :=
  ⟨rfl, rfl, rfl, by decide, _, rfl, _, rfl, by decide⟩

theorem test_witness_OutputPrefixDependsOnPayloadPrefix :
    ([1, 2, 3] : List Byte).take 2 = ([1, 2, 4, 5] : List Byte).take 2 := by decide

/-- ProcessFollowsKeyStream: a session just seeded, and one 3 bytes into block 0 of its handle. -/
theorem test_witness_ProcessFollowsKeyStream (iv : List Byte) :
    AtPosition handle.var (keyBytes handle.var handle.key) ((List.range 16).map (BitVec.ofNat 8 ·)) 0 handle.se ∧
    AtPosition .v128 (zeros 16) iv 3
      { ctr := be128 iv + 1, ks := keyStreamBlock .v128 (zeros 16) iv 0, off := 3 } :=
  ⟨⟨by decide, rfl, fun h => absurd rfl h⟩, ⟨rfl, rfl, fun _ => rfl⟩⟩

/-- The use of `handle` as just created: its key and IV, nothing put out. -/
def handleUse : HandleUse where
  key := zeros 16
  iv := (List.range 16).map (BitVec.ofNat 8 ·)
  enc := 0
  dec := 0

/-- StepKeepsSessionsInKeyStream: a handle just created, and no handle, with a step of each. -/
theorem test_witness_StepKeepsSessionsInKeyStream :
    handle.Holds (some handleUse) ∧ State.reset.Holds none ∧
    (∃ t, step { handle with cmd := [0x40000000] } = .next t ∧ t.se = handle.se) ∧
    (∃ t, step { State.reset with cmd := [0x10001010], din := zeros 32 } = .next t ∧ t.hv = true) :=
  ⟨⟨rfl, rfl, rfl, by decide, ⟨by decide, rfl, fun h => absurd rfl h⟩, ⟨by decide, rfl, fun h => absurd rfl h⟩⟩, rfl,
    ⟨_, rfl, rfl⟩, ⟨_, rfl, rfl⟩⟩

/-- The use after a step: a CREATE takes key and IV from its payload, ENC counts its output for SE alone, INCR's output
is not counted, and a CREATE short of its payload changes nothing. -/
theorem test_use_after_step :
    useAfterStep { State.reset with cmd := [0x10001010], din := zeros 16 ++ List.replicate 16 7 } State.reset none =
      some { key := zeros 16, iv := List.replicate 16 7, enc := 0, dec := 0 } ∧
    useAfterStep { handle with cmd := [0x20000003], din := zeros 3 } { handle with dout := zeros 3 } (some handleUse) =
      some { handleUse with enc := 3 } ∧
    useAfterStep { handle with cmd := [0x30000000], din := zeros 16 } { handle with dout := zeros 16 } (some handleUse) =
      some handleUse ∧
    useAfterStep { handle with cmd := [0x10001010], din := zeros 31 } handle (some handleUse) = some handleUse := by
  decide

/-- ReachableSessionsInKeyStream: a run from reset. -/
theorem test_witness_ReachableSessionsInKeyStream :
    runEvents [.host (.pushCmd 0x40000000), .engine, .host .popRsp] State.reset = some ([.word 0], State.reset) := by
  decide

/-- ResidualIsOfBlockBeforeCounter: a handle 3 bytes into a block, and an event. -/
theorem test_witness_ResidualIsOfBlockBeforeCounter :
    ({ handle with
        se := { ctr := 1, ks := cipherBlock .v128 zeroKey 0, off := 3 } } : State).ResidualsFresh ∧
    runEvent (.host (.pushDin 7)) handle = some ([], { handle with din := [7] }) :=
  ⟨fun _ d => match d with
    | .enc => ⟨by decide, .inr rfl⟩
    | .dec => ⟨by decide, .inl rfl⟩, rfl⟩

theorem test_witness_ZeroPayloadReturnsKeyStream : residual.hv = true ∧ residual.flt = false := by decide

theorem flatten_replicate_length (m n : Nat) :
    (List.replicate n (List.replicate m (0 : Byte))).flatten.length = m * n := by
  simp [Nat.mul_comm]

/-- KeyStreamRepeatsAfterWrap: 2^128 payloads of 16 bytes, with no residual and with one of 13 bytes. -/
theorem test_witness_KeyStreamRepeatsAfterWrap :
    handle.hv = true ∧ (∀ n, (ident []).fails handle.stream n = false) ∧
    (List.replicate (2 ^ 128) (List.replicate 16 (0 : Byte))).flatten.length = 16 * 2 ^ 128 ∧
    1 ≤ (handle.session .enc).off.val ∧ (handle.session .enc).off = 16 ∧
    (({ ctr := 1, ks := zeroBlock, off := 3 } : Session).ks =
      (ident []).encrypt .v128 (zeros 16) (bytes128 ((1 : BitVec 128) - 1))) :=
  ⟨rfl, fun _ => rfl, flatten_replicate_length _ _, by decide, rfl, by decide⟩

/-- CounterWrapsWithoutError: a session seeded with an IV of 0xFF×16, and both ends of the length. -/
theorem test_witness_CounterWrapsWithoutError :
    (seedSession (List.replicate 16 0xff)).ctr = BitVec.allOnes 128 ∧ (seedSession (List.replicate 16 0xff)).off = 16 ∧
    ({ handle with se := seedSession (List.replicate 16 0xff), din := zeros 16 } : State).flt = false ∧
    (1 ≤ 1 ∧ 1 ≤ (zeros 16).length) ∧ 16 ≤ (zeros 16).length := by decide

/-- Vector 2.5.1: `ENC 32` of zeros with IV 0xFF×16 wraps the counter in its middle. -/
theorem test_enc_counter_wrap :
    (process (ident []) .enc (zeros 32) { handle with se := seedSession (List.replicate 16 0xff) }).dout =
      List.replicate 16 0xff ++ zeros 16 ∧
    (process (ident []) .enc (zeros 32) { handle with se := seedSession (List.replicate 16 0xff) }).se =
      { ctr := 1, ks := zeroBlock, off := 16 } ∧
    (process (ident []) .enc (zeros 32) { handle with se := seedSession (List.replicate 16 0xff) }).rsp =
      [0x00000001] := by decide

/-- Capacities of 1, the least R13 allows: the host waits once the channel holds its one word. -/
theorem test_capacity_one :
    hostWaits ⟨⟨1, by decide⟩, ⟨1, by decide⟩, ⟨1, by decide⟩, ⟨1, by decide⟩⟩ (.pushCmd 0) State.reset = false ∧
    hostWaits ⟨⟨1, by decide⟩, ⟨1, by decide⟩, ⟨1, by decide⟩, ⟨1, by decide⟩⟩ (.pushCmd 0)
      { State.reset with cmd := [0] } = true := by decide

/-- A streamed command with a payload byte left waits on an empty DIN, and one with none left does not. -/
theorem test_streaming_waits_for_din :
    engineWaitsForHost ⟨⟨1, by decide⟩, ⟨1, by decide⟩, ⟨1, by decide⟩, ⟨1, by decide⟩⟩ 1 State.reset = true ∧
    engineWaitsForHost ⟨⟨1, by decide⟩, ⟨1, by decide⟩, ⟨1, by decide⟩, ⟨1, by decide⟩⟩ 0 State.reset = false := by
  decide

theorem test_witness_IncrAddsOneModulo :
    ({ State.reset with din := List.replicate 16 0xFF } : State).flt = false ∧
    16 ≤ (List.replicate 16 (0xFF : Byte)).length := by decide

theorem test_witness_sixteen_bytes : (zeros 16).length = 16 := by decide

/-- StepKeepsInvariant: a state that meets the invariant and its step. -/
theorem test_witness_StepKeepsInvariant :
    ({ residual with cmd := [0x20000003] } : State).Inv ∧
    ∃ t, step { residual with cmd := [0x20000003] } = .next t ∧ t.se.off = 6 :=
  ⟨⟨by decide, by decide, by decide, by decide, by decide⟩, _, rfl, by decide⟩

/-- Reachable: reset itself, and the state after the host pushed STATUS and the engine ran it. -/
theorem test_witness_Reachable :
    Reachable State.reset ∧ Reachable { State.reset with rsp := [0x00000000] } :=
  ⟨⟨[], [], rfl⟩, ⟨[.host (.pushCmd 0x40000000), .engine], [], by decide⟩⟩

theorem test_witness_HostActionsReachChannelsOnly :
    ({ State.reset with dout := [1, 2] } : State).dout = 1 :: [2] ∧
    ({ State.reset with rsp := [3] } : State).rsp = 3 :: [] ∧ State.reset.dout = [] ∧ State.reset.rsp = [] := by decide

theorem test_witness_SecretsStayInside :
    (∀ d len, Instr.incr ≠ Dir.instr d len) ∧ (∀ d len, Instr.status ≠ Dir.instr d len) ∧
    (∀ d len, Instr.create 16 16 ≠ Dir.instr d len) ∧ Instr.incr.decl ≤ faulted.din.length ∧
    (Instr.create 16 16).decl ≤ faulted.din.length :=
  ⟨by intro d len; cases d <;> exact nofun, by intro d len; cases d <;> exact nofun,
    by intro d len; cases d <;> exact nofun, by decide, by decide⟩

theorem test_witness_InstancesShareNothing :
    ∃ sys', systemEvent (n := ⟨2, by decide⟩) (0 : Fin 2) (.host (.pushDin 9)) (systemReset ⟨2, by decide⟩) = some ([], sys') ∧ (1 : Fin 2) ≠ 0 :=
  ⟨_, rfl, by decide⟩

end Sys2Proof.Tests
end

section
/-!
Proofs of the scope family (spec/00_scope.md): the big-endian conversions of R18, and the independence of the engine
instances of R12.
-/

namespace Sys2Proof.Proofs.Scope

open Sys2Proof Sys2Proof.Machine Sys2Proof.Laws

/-! ### Byte strings as sums and slices (R18) -/

/-- The fold that reads a string equals its positional sum: a byte appended moves every earlier one up by 8 bits. -/
theorem beNat_eq_sum (l : List Byte) :
    beNat l = ∑ i ∈ Finset.range l.length, (l.getD i 0).toNat * 2 ^ (8 * (l.length - 1 - i)) := by
  induction l using List.reverseRecOn with
  | nil => rfl
  | append_singleton l b ih =>
    have hlast : ((l ++ [b]).getD l.length 0).toNat * 2 ^ (8 * (l.length + 1 - 1 - l.length)) = b.toNat := by simp
    have hinit : ∀ i ∈ Finset.range l.length,
        ((l ++ [b]).getD i 0).toNat * 2 ^ (8 * (l.length + 1 - 1 - i)) =
          (l.getD i 0).toNat * 2 ^ (8 * (l.length - 1 - i)) * 2 ^ 8 := by
      intro i hi
      have hi : i < l.length := Finset.mem_range.mp hi
      have hexp : 8 * (l.length + 1 - 1 - i) = 8 * (l.length - 1 - i) + 8 := by omega
      rw [List.getD_append _ _ _ _ hi, hexp, Nat.pow_add, Nat.mul_assoc]
    rw [beNat_concat, ih, List.length_append, List.length_singleton, Finset.sum_range_succ, hlast,
      Finset.sum_congr rfl hinit, Finset.sum_mul]

theorem be128_toNat_eq_sum {b : List Byte} (hb : b.length = 16) :
    (be128 b).toNat = ∑ i ∈ Finset.range 16, (b.getD i 0).toNat * 2 ^ (8 * (15 - i)) := by
  rw [be128_toNat hb, beNat_eq_sum, hb]

theorem bytes128_getElem_eq_div (v : BitVec 128) (i : Nat) (hi : i < 16) :
    (bytes128 v)[i] = BitVec.ofNat 8 (v.toNat / 2 ^ (120 - 8 * i)) := by
  rw [bytes128_getElem, BitVec.extractLsb', Nat.shiftRight_eq_div_pow]

/-- Settles O38: the sum by induction on the string, the slices from the definition of `bytes128`. -/
theorem bigEndianConversions : Obligations.BigEndianConversions :=
  ⟨fun _ hb => ⟨be128_toNat_eq_sum hb, bytes128_be128 hb⟩,
    fun v => ⟨be128_bytes128 v, bytes128_getElem_eq_div v⟩⟩

/-! ### Instances side by side (R12, R207) -/

/-- All an event at instance `k` can do: that engine's own event, its state written back in its place. -/
theorem systemEvent_eq_some_iff {n : InstanceCount} {k : Fin n.val} {e : Event} {sys sys' : System n}
    {o : List Observation} :
    systemEvent k e sys = some (o, sys') ↔
      ∃ t, runEvent e sys[k] = some (o, t) ∧ sys' = sys.set k.val t k.isLt := by
  unfold systemEvent
  cases runEvent e sys[k] with
  | none => simp
  | some r =>
    obtain ⟨o', t⟩ := r
    simp [eq_comm]

/-- Settles O49: the event writes place `k` of the vector and reads no other. -/
theorem instancesShareNothing : Obligations.InstancesShareNothing := by
  intro n k e sys sys' o h
  obtain ⟨t, hrun, rfl⟩ := systemEvent_eq_some_iff.mp h
  refine ⟨?_, fun j hj => ?_⟩
  · rw [hrun, Fin.getElem_fin, Vector.getElem_set_self]
  · have hne : k.val ≠ j.val := fun hkj => hj (Fin.ext hkj.symm)
    rw [Fin.getElem_fin, Fin.getElem_fin, Vector.getElem_set_ne _ _ hne]

end Sys2Proof.Proofs.Scope
end

section
/-!
Proofs of the state family (spec/10_state.md): what an event can do to the registers of R30, said once; the invariants
over steps and events that follow from it; STAT and the reset values; and that CREATE, INCR and STATUS let nothing of
KEY and the sessions out.
-/

namespace Sys2Proof.Proofs.Registers

open Sys2Proof Sys2Proof.Machine Sys2Proof.Laws

/-! ### What an event does to the registers of R30 -/

/-- The registers after ENC or DEC with a handle and no fault: the run's session written back, FLT set if it failed. -/
def afterRun (d : Dir) (p : List Byte) (s : State) : State :=
  { commitRun d (runOf d p s) s with flt := (runOf d p s).failed }

@[simp] theorem afterRun_hv (d : Dir) (p : List Byte) (s : State) : (afterRun d p s).hv = s.hv := commitRun_hv ..

@[simp] theorem afterRun_var (d : Dir) (p : List Byte) (s : State) : (afterRun d p s).var = s.var := commitRun_var ..

@[simp] theorem afterRun_key (d : Dir) (p : List Byte) (s : State) : (afterRun d p s).key = s.key := commitRun_key ..

theorem afterRun_session_same (d : Dir) (p : List Byte) (s : State) :
    (afterRun d p s).session d = (runOf d p s).session := by
  cases d <;> rfl

theorem afterRun_session_other {d d' : Dir} (h : d' ≠ d) (p : List Byte) (s : State) :
    (afterRun d p s).session d' = s.session d' :=
  (show (afterRun d p s).session d' = (commitRun d (runOf d p s) s).session d' by cases d' <;> rfl).trans
    (commitRun_session_other h ..)

/-- What holds of a bank before a run and of the bank the run leaves holds of both banks after it. -/
theorem afterRun_session {Q : Session → Prop} {d : Dir} {p : List Byte} {s : State}
    (hrun : Q (s.session d) → Q (runOf d p s).session) (h : ∀ d', Q (s.session d')) (d' : Dir) :
    Q ((afterRun d p s).session d') := by
  by_cases hd : d' = d
  · rw [hd, afterRun_session_same]
    exact hrun (h d)
  · rw [afterRun_session_other hd]
    exact h d'

/-- Everything a step can do to the registers: keep them, construct a handle (R171), or run the XOR path (R145). -/
def RegisterEffect (s t : State) : Prop :=
  SameRegisters s t ∨
  (∃ v key iv, s.flt = false ∧ selectMode key.length = some v ∧ iv.length = 16 ∧
    SameRegisters (construct v key iv s) t) ∨
  (∃ d p, s.hv = true ∧ s.flt = false ∧ SameRegisters (afterRun d p s) t)

theorem SameRegisters.refl (s : State) : SameRegisters s s := ⟨rfl, rfl, rfl, rfl, rfl, rfl⟩

/-- What is in CMD and DIN makes no difference to what can happen to the registers. -/
theorem RegisterEffect.of_channels {s t : State} {cmd : List Word} {din : List Byte}
    (h : RegisterEffect { s with cmd := cmd, din := din } t) : RegisterEffect s t := by
  rcases h with h | ⟨v, key, iv, hf, hm, hiv, h⟩ | ⟨d, p, hv, hf, h⟩
  · exact .inl h
  · exact .inr (.inl ⟨v, key, iv, hf, hm, hiv, h⟩)
  · refine .inr (.inr ⟨d, p, hv, hf, ?_⟩)
    cases d <;> exact h

theorem unlessFaulted_effect {body : List Byte → State → State} {p : List Byte} {s : State}
    (h : s.flt = false → RegisterEffect s (body p s)) : RegisterEffect s (unlessFaulted body p s) := by
  cases hf : s.flt with
  | true => exact .inl (unlessFaulted_faulted hf body p ▸ SameRegisters.refl s)
  | false => exact unlessFaulted_clear hf body p ▸ h hf

theorem createBody_effect {klen ivlen : Nat} {p : List Byte} {s : State} (hf : s.flt = false)
    (hp : p.length = klen + ivlen) : RegisterEffect s (createBody klen ivlen p s) := by
  rcases createBody_cases klen ivlen p s with ⟨-, he⟩ | ⟨-, -, -, he⟩ | ⟨v, hm, hi, he⟩ <;> rw [he]
  · exact .inl (SameRegisters.refl s)
  · exact .inl (SameRegisters.refl s)
  · have hkey : (keySlice klen p).length = klen := by simp [keySlice, hp]
    have hiv : (ivSlice klen ivlen p).length = 16 := by simp [ivSlice, hp, hi]
    exact .inr (.inl ⟨v, _, _, hf, hkey.symm ▸ hm, hiv, SameRegisters.refl _⟩)

theorem process_effect (d : Dir) (p : List Byte) {s : State} (hf : s.flt = false) :
    RegisterEffect s (process Config.primitive d p s) := by
  cases hv : s.hv with
  | false => exact .inl (process_noHandle _ d p hv ▸ SameRegisters.refl s)
  | true =>
    refine .inr (.inr ⟨d, p, hv, hf, ?_⟩)
    rw [process_handle _ d p hv]
    cases hr : (runOf d p s).failed with
    | true => exact ⟨rfl, rfl, hr, rfl, rfl, rfl⟩
    | false => exact ⟨rfl, rfl, by simp [afterRun, hr, hf], rfl, rfl, rfl⟩

theorem exec_effect {i : Instr} {s t : State} (hl : i.decl ≤ s.din.length) (h : exec i s = .next t) :
    RegisterEffect s t := by
  cases i with
  | create klen ivlen =>
    cases (exec_create hl).symm.trans h
    exact (unlessFaulted_effect fun hf => createBody_effect hf (List.length_take_of_le hl)).of_channels
  | enc len =>
    cases (exec_enc hl).symm.trans h
    exact (unlessFaulted_effect (process_effect .enc _)).of_channels
  | dec len =>
    cases (exec_dec hl).symm.trans h
    exact (unlessFaulted_effect (process_effect .dec _)).of_channels
  | incr =>
    cases (exec_incr hl).symm.trans h
    exact (unlessFaulted_effect fun _ => .inl (SameRegisters.refl _)).of_channels
  | status =>
    cases (exec_status s).symm.trans h
    exact .inl (SameRegisters.refl s)

theorem step_effect {s t : State} (h : step s = .next t) : RegisterEffect s t := by
  rcases step_cases s with ⟨-, hs⟩ | ⟨w, rest, -, -, -, hs⟩ | ⟨-, rest, i, -, -, hl, hs⟩
  · cases hs.symm.trans h
    exact .inl (SameRegisters.refl s)
  · cases hs.symm.trans h
    exact .inl (SameRegisters.refl s)
  · exact (exec_effect (s := { s with cmd := rest }) hl (hs.symm.trans h)).of_channels

/-- A host action keeps the registers or gives them their reset values (R220, R236). -/
theorem hostAct_registers {a : HostAction} {s t : State} {o : List Observation} (h : hostAct a s = some (o, t)) :
    SameRegisters s t ∨ SameRegisters State.reset t := by
  cases a with
  | pushCmd w => cases h; exact .inl (SameRegisters.refl s)
  | pushDin b => cases h; exact .inl (SameRegisters.refl s)
  | popDout =>
    unfold hostAct at h
    cases hd : s.dout <;> rw [hd] at h <;> cases h
    exact .inl (SameRegisters.refl s)
  | popRsp =>
    unfold hostAct at h
    cases hr : s.rsp <;> rw [hr] at h <;> cases h
    exact .inl (SameRegisters.refl s)
  | assertReset => cases h; exact .inr (SameRegisters.refl _)

theorem runEvent_engine {s t : State} {o : List Observation} (h : runEvent .engine s = some (o, t)) :
    step s = .next t := by
  unfold runEvent at h
  cases hs : step s with
  | next u => simp only [hs] at h; cases h; rfl
  | fault f => simp only [hs] at h; cases h
  | refused r => simp only [hs] at h; cases h

/-- A run of at least one event is that event and then the run of the others. -/
theorem runEvents_cons {e : Event} {es : List Event} {s t : State} {obs : List Observation}
    (h : runEvents (e :: es) s = some (obs, t)) :
    ∃ o u o', runEvent e s = some (o, u) ∧ runEvents es u = some (o', t) := by
  unfold runEvents at h
  cases he : runEvent e s with
  | none => simp only [he] at h; cases h
  | some r =>
    cases hr : runEvents es r.2 with
    | none => simp only [he, hr] at h; cases h
    | some r' =>
      simp only [he, hr] at h
      cases h
      exact ⟨r.1, r.2, r'.1, rfl, hr⟩

/-- All an event can do to the registers: what a step can, or reset them (R220). -/
theorem runEvent_effect {e : Event} {s t : State} {o : List Observation} (h : runEvent e s = some (o, t)) :
    RegisterEffect s t ∨ SameRegisters State.reset t := by
  cases e with
  | engine => exact .inl (step_effect (runEvent_engine h))
  | host a => exact (hostAct_registers h).imp_left .inl

/-! ### Register invariants -/

/-- A property of the registers that holds at reset and is kept by both ways a step can write them. -/
structure RegisterInvariant (P : State → Prop) : Prop where
  reset : P State.reset
  same : ∀ s t, SameRegisters s t → P s → P t
  create : ∀ v key iv s, selectMode key.length = some v → iv.length = 16 → P s → P (construct v key iv s)
  run : ∀ d p s, s.hv = true → P s → P (afterRun d p s)

section
variable {P : State → Prop} (hP : RegisterInvariant P)
include hP

theorem RegisterInvariant.of_effect {s t : State} (h : RegisterEffect s t) (hs : P s) : P t := by
  rcases h with h | ⟨v, key, iv, -, hm, hiv, h⟩ | ⟨d, p, hv, -, h⟩
  · exact hP.same _ _ h hs
  · exact hP.same _ _ h (hP.create v key iv s hm hiv hs)
  · exact hP.same _ _ h (hP.run d p s hv hs)

theorem RegisterInvariant.step {s t : State} (hs : P s) (h : step s = .next t) : P t :=
  hP.of_effect (step_effect h) hs

theorem RegisterInvariant.event {e : Event} {s t : State} {o : List Observation} (hs : P s)
    (h : runEvent e s = some (o, t)) : P t :=
  (runEvent_effect h).elim (fun he => hP.of_effect he hs) (fun hr => hP.same _ _ hr hP.reset)

theorem RegisterInvariant.events {es : List Event} {s t : State} {o : List Observation} (hs : P s)
    (h : runEvents es s = some (o, t)) : P t := by
  induction es generalizing s o with
  | nil => cases h; exact hs
  | cons e es ih =>
    obtain ⟨_, _, _, he, hes⟩ := runEvents_cons h
    exact ih (hP.event hs he) hes

theorem RegisterInvariant.reachable {s : State} (h : Reachable s) : P s :=
  let ⟨_, _, hrun⟩ := h
  hP.events hP.reset hrun

end

/-! ### What holds between commands (R32, R34, R39, R176) -/

/-- Settles O41: each clause is read off the reset values. -/
theorem resetMeetsInvariant : Obligations.ResetMeetsInvariant where
  seOff := by decide
  sdOff := by decide
  faultHandle := nofun
  noHandle _ := ⟨rfl, rfl, rfl, rfl⟩
  keyPad _ := by decide

theorem inv_of_sameRegisters {s t : State} (h : SameRegisters s t) (hs : s.Inv) : t.Inv := by
  obtain ⟨hv, var, flt, key, se, sd⟩ := h
  exact
    { seOff := se ▸ hs.seOff
      sdOff := sd ▸ hs.sdOff
      faultHandle := hv ▸ flt ▸ hs.faultHandle
      noHandle := hv ▸ var ▸ key ▸ se ▸ sd ▸ hs.noHandle
      keyPad := var ▸ key ▸ hs.keyPad }

theorem selectMode_eq_v128 {klen : Nat} (h : selectMode klen = some .v128) : klen = 16 := by
  unfold selectMode at h
  split_ifs at h with h16
  · exact h16
  · cases h

theorem keyRegister_padded {key : List Byte} (h : key.length = 16) : (keyRegister key).toList.drop 16 = zeros 16 := by
  rw [keyRegister_toList (by omega), h, List.drop_left' h]

theorem seedSession_off_pos (iv : List Byte) : 1 ≤ (seedSession iv).off.val :=
  show 1 ≤ (16 : Fin 17).val by decide

theorem construct_inv {v : Variant} {key iv : List Byte} {s : State}
    (hm : selectMode key.length = some v) : (construct v key iv s).Inv where
  seOff := seedSession_off_pos iv
  sdOff := seedSession_off_pos iv
  faultHandle _ := rfl
  noHandle := nofun
  keyPad hv := keyRegister_padded (selectMode_eq_v128 (hm.trans (congrArg some hv)))

theorem afterRun_inv (d : Dir) (p : List Byte) {s : State} (hv : s.hv = true) (hs : s.Inv) :
    (afterRun d p s).Inv := by
  have hoff : ∀ d', 1 ≤ ((afterRun d p s).session d').off.val :=
    afterRun_session (Q := fun S => 1 ≤ S.off.val) (xorPath_off_pos p _ _)
      fun d' => match d' with
        | .enc => hs.seOff
        | .dec => hs.sdOff
  exact
    { seOff := hoff .enc
      sdOff := hoff .dec
      faultHandle := fun _ => by rw [afterRun_hv, hv]
      noHandle := fun h => by rw [afterRun_hv, hv] at h; cases h
      keyPad := by simpa using hs.keyPad }

theorem inv_registerInvariant : RegisterInvariant State.Inv where
  reset := resetMeetsInvariant
  same _ _ := inv_of_sameRegisters
  create _ _ _ _ hm _ _ := construct_inv hm
  run d p _ := afterRun_inv d p

/-- Settles O42, by what a step can do to the registers. -/
theorem stepKeepsInvariant : Obligations.StepKeepsInvariant :=
  fun _ _ => inv_registerInvariant.step

/-- Settles O44: the lower bound is the invariant's, the upper one that of the type of OFF. -/
theorem residualBound : Obligations.ResidualBound := by
  intro s d hr
  have hinv : s.Inv := inv_registerInvariant.reachable hr
  have hlow : 1 ≤ (s.session d).off.val := by
    cases d with
    | enc => exact hinv.seOff
    | dec => exact hinv.sdOff
  have hhigh := (s.session d).off.isLt
  refine ⟨hlow, by omega, ?_⟩
  unfold resCount
  omega

/-! ### A residual is of the block before the counter (R37, R135) -/

/-- What `State.ResidualsFresh` says of one session. -/
def Fresh (v : Variant) (key : KeyReg) (S : Session) : Prop :=
  1 ≤ S.off.val ∧ (S.off = 16 ∨ S.ks = cipherBlock v key (S.ctr - 1))

theorem residualsFresh_iff (s : State) :
    s.ResidualsFresh ↔ (s.hv = true → ∀ d, Fresh s.var s.key (s.session d)) := Iff.rfl

theorem fresh_seedSession (v : Variant) (key : KeyReg) (iv : List Byte) : Fresh v key (seedSession iv) :=
  ⟨seedSession_off_pos iv, .inl rfl⟩

theorem askPrimitive_eq_some {s : State} {n : Nat} {block b : Block}
    (h : askPrimitive Config.primitive s n block = some b) :
    b = Config.blockEncrypt s.var (keyBytes s.var s.key) block := by
  cases hf : Config.primFails s.stream n with
  | true => rw [askPrimitive_fail hf] at h; cases h
  | false => rw [askPrimitive_ok hf] at h; exact (Option.some.inj h).symm

/-- The block a session reads from after a refill is that of the counter value before its counter. -/
theorem refill_ks {s : State} {n m : Nat} {S S' : Session} (hS : Fresh s.var s.key S)
    (h : refill (askPrimitive Config.primitive s) n S = some (S', m)) :
    S'.ks = cipherBlock s.var s.key (S'.ctr - 1) := by
  obtain ⟨-, hks⟩ := hS
  rcases refill_cases (askPrimitive Config.primitive s) n S with ⟨ho, hr⟩ | ⟨-, -, hr⟩ | ⟨b, -, ha, hr⟩ <;>
    cases hr.symm.trans h
  · exact hks.resolve_left ho
  · have hctr : inc S.ctr - 1 = S.ctr := BitVec.add_sub_cancel ..
    rw [askPrimitive_eq_some ha, hctr, cipherBlock]

theorem xorPath_fresh {s : State} (p : List Byte) (n : Nat) {S : Session} (hS : Fresh s.var s.key S) :
    Fresh s.var s.key (xorPath (askPrimitive Config.primitive s) p n S).session := by
  induction p generalizing n S with
  | nil => exact hS
  | cons b p ih =>
    cases hr : refill (askPrimitive Config.primitive s) n S with
    | none => rwa [xorPath_cons_fail hr]
    | some a =>
      obtain ⟨S', m⟩ := a
      have hoff : 1 ≤ (useByte S').off.val := by rw [useByte_off (refill_off_lt hr)]; omega
      have hks := refill_ks hS hr
      rw [xorPath_cons_some hr, emit_session]
      exact ih m ⟨hoff, .inr hks⟩

theorem construct_residualsFresh (v : Variant) (key iv : List Byte) (s : State) :
    (construct v key iv s).ResidualsFresh :=
  fun _ d => match d with
    | .enc => fresh_seedSession v _ iv
    | .dec => fresh_seedSession v _ iv

theorem afterRun_residualsFresh (d : Dir) (p : List Byte) {s : State} (hv : s.hv = true) (hs : s.ResidualsFresh) :
    (afterRun d p s).ResidualsFresh := by
  rw [residualsFresh_iff, afterRun_var, afterRun_key]
  exact fun _ => afterRun_session (xorPath_fresh p s.drawn) (hs hv)

theorem residualsFresh_registerInvariant : RegisterInvariant State.ResidualsFresh where
  reset := nofun
  same _ _ := SameRegisters.residualsFresh
  create v key iv s _ _ _ := construct_residualsFresh v key iv s
  run d p _ := afterRun_residualsFresh d p

/-- Settles O53, by what an event can do to the registers. -/
theorem residualIsOfBlockBeforeCounter : Obligations.ResidualIsOfBlockBeforeCounter :=
  ⟨residualsFresh_registerInvariant.reset, fun _ _ _ _ => residualsFresh_registerInvariant.event⟩

/-! ### Nothing of KEY and the sessions goes out (R42) -/

/-- Everything but KEY, the sessions and the model's own counters agrees. -/
structure SamePublic (s t : State) : Prop where
  hv : s.hv = t.hv
  var : s.var = t.var
  flt : s.flt = t.flt
  cmd : s.cmd = t.cmd
  din : s.din = t.din
  dout : s.dout = t.dout
  rsp : s.rsp = t.rsp

theorem SamePublic.respond {s t : State} (h : SamePublic s t) (c : Code) (arg acc : Byte) :
    SamePublic (respond c arg acc s) (respond c arg acc t) :=
  { h with rsp := by rw [respond_rsp, respond_rsp, h.rsp, respWord_congr (stat_congr h.flt h.var h.hv)] }

theorem SamePublic.doutPush {s t : State} (h : SamePublic s t) (b : List Byte) :
    SamePublic (doutPush b s) (doutPush b t) :=
  { h with dout := by rw [doutPush_dout, doutPush_dout, h.dout] }

theorem SamePublic.construct {s t : State} (h : SamePublic s t) (v : Variant) (key iv : List Byte) :
    SamePublic (construct v key iv s) (construct v key iv t) :=
  { h with hv := rfl, var := rfl }

theorem SamePublic.createBody {s t : State} (h : SamePublic s t) (klen ivlen : Nat) (p : List Byte) :
    SamePublic (createBody klen ivlen p s) (createBody klen ivlen p t) := by
  unfold Machine.createBody
  cases selectMode klen with
  | none => exact h.respond ..
  | some v =>
    by_cases hi : ivlen = 16
    · simp only [if_pos hi]
      exact (h.construct ..).respond ..
    · simp only [if_neg hi]
      exact h.respond ..

theorem SamePublic.unlessFaulted {s t : State} (h : SamePublic s t) {body : List Byte → State → State}
    {p : List Byte} (hb : SamePublic (body p s) (body p t)) :
    SamePublic (unlessFaulted body p s) (unlessFaulted body p t) := by
  cases hf : s.flt with
  | true =>
    rw [unlessFaulted_faulted hf, unlessFaulted_faulted (h.flt ▸ hf)]
    exact h.respond ..
  | false => rwa [unlessFaulted_clear hf, unlessFaulted_clear (h.flt ▸ hf)]

theorem SamePublic.popPayload {s t : State} (h : SamePublic s t) {n : Nat} (hl : n ≤ s.din.length)
    {body : List Byte → State → State}
    (hb : ∀ p {s' t'}, SamePublic s' t' → SamePublic (body p s') (body p t')) :
    ∃ u u', popPayload n s body = .next u ∧ popPayload n t body = .next u' ∧ SamePublic u u' := by
  have hpop : SamePublic { s with din := s.din.drop n } { t with din := s.din.drop n } := { h with din := rfl }
  refine ⟨_, _, popPayload_next hl body, popPayload_next (h.din ▸ hl) body, ?_⟩
  rw [← h.din]
  exact hb _ hpop

/-- A command other than ENC and DEC shows the same of two states that agree in all but KEY and the sessions. -/
theorem SamePublic.exec {s t : State} (h : SamePublic s t) {i : Instr} (hi : ∀ d len, i ≠ Dir.instr d len)
    (hl : i.decl ≤ s.din.length) :
    ∃ u u', exec i s = .next u ∧ exec i t = .next u' ∧ SamePublic u u' := by
  cases i with
  | create klen ivlen => exact h.popPayload hl fun p _ _ h' => h'.unlessFaulted (h'.createBody klen ivlen p)
  | enc len => exact absurd rfl (hi .enc len)
  | dec len => exact absurd rfl (hi .dec len)
  | incr => exact h.popPayload hl fun _ _ _ h' => h'.unlessFaulted ((h'.doutPush _).respond ..)
  | status => exact ⟨_, _, rfl, rfl, h.respond ..⟩

/-- Settles O48: no operation of CREATE, INCR and STATUS reads KEY or a session. -/
theorem secretsStayInside : Obligations.SecretsStayInside := by
  intro i s key S S' hi hl
  have hsame : SamePublic { s with key := key, se := S, sd := S' } s := ⟨rfl, rfl, rfl, rfl, rfl, rfl, rfl⟩
  obtain ⟨t', t, ht', ht, h⟩ := hsame.exec hi hl
  exact ⟨t, t', ht, ht', h.hv, h.var, h.flt, h.cmd, h.din, h.dout, h.rsp⟩

/-! ### STAT and the reset values (R46, R50) -/

theorem varBit_getLsbD (v : Variant) : (varBit v).getLsbD 0 = decide (v = .v256) := by
  cases v <;> rfl

/-- Bit by bit, STAT is the concatenation that R46 writes. -/
theorem stat_getLsbD (s : State) (k : Nat) :
    (stat s).getLsbD k =
      if k = 0 then s.hv else if k = 1 then decide (s.var = .v256) else if k = 2 then s.flt else false := by
  have happend : (stat s).getLsbD k =
      (0#5 ++ BitVec.ofBool s.flt ++ varBit s.var ++ BitVec.ofBool s.hv : BitVec (5 + 1 + 1 + 1)).getLsbD k := rfl
  simp only [happend, BitVec.getLsbD_append]
  match k with
  | 0 => simp
  | 1 => simp [← varBit_getLsbD]
  | 2 => simp
  | k + 3 => simp

theorem stat_reset : stat State.reset = 0x00 := by decide

/-- Settles O12, from the bits of STAT one by one. -/
theorem statLayout : Obligations.StatLayout := by
  refine ⟨fun s => ⟨stat_getLsbD s 0, stat_getLsbD s 1, stat_getLsbD s 2, ?_⟩, stat_reset⟩
  apply BitVec.eq_of_getLsbD_eq
  intro k hk
  have hbit : (stat s).getLsbD (3 + k) = false := by
    rw [stat_getLsbD, if_neg (by omega), if_neg (by omega), if_neg (by omega)]
  simp [BitVec.getLsbD_extractLsb', hbit]

/-- Settles O45: each register's reset value by definition, STAT by computing it. -/
theorem resetValues : Obligations.ResetValues := by
  have hbank : ∀ d, State.reset.session d = Session.reset := fun d => by cases d <;> rfl
  have hkey : State.reset.key.toList = zeros 32 := Vector.toList_replicate
  refine ⟨rfl, rfl, rfl, hkey, fun d => ?_, rfl, rfl, rfl, rfl, stat_reset⟩
  rw [hbank]
  exact ⟨rfl, Vector.toList_replicate, rfl⟩

end Sys2Proof.Proofs.Registers
end

section
/-!
Proofs of the memory family (spec/20_memory.md): the engine's waiting of R78.
-/

namespace Sys2Proof.Proofs.Memory

open Sys2Proof Sys2Proof.Machine Sys2Proof.Laws

theorem step_of_fetch_waiting {s : State} (h : fetch s = .waiting) : step s = .next s := by
  simp only [step, h]

/-- Settles O7: in both cases the fetch finds no enabled command. -/
theorem stepWaitsForCommandAndPayload : Obligations.StepWaitsForCommandAndPayload := by
  rintro s (hempty | ⟨w, rest, i, hcmd, hdec, hshort⟩)
  · exact step_of_fetch_waiting (fetch_nil hempty)
  · exact step_of_fetch_waiting (fetch_short hcmd hdec hshort)

end Sys2Proof.Proofs.Memory
end

section
/-!
Proofs of the encoding family (spec/30_encoding.md): the decoder and the encoder as one relation between a command and
the fields of its word, the opcode map, and what a step does to the four channels.
-/

namespace Sys2Proof.Proofs.Encoding

open Sys2Proof Sys2Proof.Machine Sys2Proof.Laws

/-! ### Operand ranges and words as numbers (R82 to R85, R96) -/

theorem noError_iff {c : Prop} [Decidable c] {e : OperandError} : (if c then [] else [e]).isEmpty = true ↔ c := by
  by_cases h : c <;> simp [h]

theorem wellFormed_create {klen ivlen : Nat} :
    (Instr.create klen ivlen).wellFormed = true ↔ klen < 2 ^ 8 ∧ ivlen < 2 ^ 8 := by
  rw [Instr.wellFormed, Instr.operandErrors, List.isEmpty_iff, List.append_eq_nil_iff,
    ← List.isEmpty_iff, ← List.isEmpty_iff, noError_iff, noError_iff]

theorem wellFormed_enc {len : Nat} : (Instr.enc len).wellFormed = true ↔ len < 2 ^ 24 := noError_iff

theorem wellFormed_dec {len : Nat} : (Instr.dec len).wellFormed = true ↔ len < 2 ^ 24 := wellFormed_enc

theorem toNat_field (w : Word) (start len : Nat) :
    (w.extractLsb' start len).toNat = w.toNat / 2 ^ start % 2 ^ len := by
  rw [BitVec.extractLsb'_toNat, Nat.shiftRight_eq_div_pow]

theorem field_eq_iff {w : Word} {start len : Nat} {v : BitVec len} :
    w.extractLsb' start len = v ↔ w.toNat / 2 ^ start % 2 ^ len = v.toNat := by
  rw [← BitVec.toNat_inj, toNat_field]

theorem encode_create_toNat (klen ivlen : Nat) :
    (encode (.create klen ivlen)).toNat = 0x10000000 + klen % 2 ^ 8 * 2 ^ 8 + ivlen % 2 ^ 8 := by
  simp only [encode, toNat_append, BitVec.toNat_ofNat]
  omega

theorem encode_enc_toNat (len : Nat) : (encode (.enc len)).toNat = 0x20000000 + len % 2 ^ 24 := by
  simp only [encode, toNat_append, BitVec.toNat_ofNat]
  omega

theorem encode_dec_toNat (len : Nat) : (encode (.dec len)).toNat = 0x21000000 + len % 2 ^ 24 := by
  simp only [encode, toNat_append, BitVec.toNat_ofNat]
  omega

/-! ### The decoder by opcode (R81) -/

section
variable {w : Word}

theorem decode_of_opc_create (h : wordOpc w = 0x1) : decode w = decodeC w := by simp [decode, h]
theorem decode_of_opc_process (h : wordOpc w = 0x2) : decode w = decodeP w := by simp [decode, h]
theorem decode_of_opc_incr (h : wordOpc w = 0x3) : decode w = decodeN .incr w := by simp [decode, h]
theorem decode_of_opc_status (h : wordOpc w = 0x4) : decode w = decodeN .status w := by simp [decode, h]

theorem decode_reservedOpcode (h : wordOpc w = 0x0 ∨ 0x5 ≤ wordOpc w) : decode w = .error .reservedOpcode := by
  have hnone : ∀ o : BitVec 4, o = 0x0 ∨ 0x5 ≤ o → o ≠ 0x1 ∧ o ≠ 0x2 ∧ o ≠ 0x3 ∧ o ≠ 0x4 := by decide
  obtain ⟨h1, h2, h3, h4⟩ := hnone _ h
  simp only [decode, if_neg h1, if_neg h2, if_neg h3, if_neg h4]

end

/-! ### A command and the fields of its word -/

/-- The fields of the word are those of the command: OPC, reserved bits all zero, and every operand (R82 to R86). -/
def HasFields : Instr → Word → Prop
  | .create klen ivlen, w => wordOpc w = 0x1 ∧ wordRsvC w = 0 ∧ wordKlen w = klen ∧ wordIvlen w = ivlen
  | .enc len, w => wordOpc w = 0x2 ∧ wordRsvP w = 0 ∧ wordDir w = 0 ∧ wordLen w = len
  | .dec len, w => wordOpc w = 0x2 ∧ wordRsvP w = 0 ∧ wordDir w = 1 ∧ wordLen w = len
  | .incr, w => wordOpc w = 0x3 ∧ wordRsvN w = 0
  | .status, w => wordOpc w = 0x4 ∧ wordRsvN w = 0

theorem decode_of_hasFields {i : Instr} {w : Word} (h : HasFields i w) : decode w = .ok i := by
  cases i with
  | create klen ivlen =>
    obtain ⟨hopc, hrsv, rfl, rfl⟩ := h
    rw [decode_of_opc_create hopc, decodeC, if_pos hrsv]
  | enc len =>
    obtain ⟨hopc, hrsv, hdir, rfl⟩ := h
    rw [decode_of_opc_process hopc, decodeP, if_pos hrsv, if_pos hdir]
  | dec len =>
    obtain ⟨hopc, hrsv, hdir, rfl⟩ := h
    have hdir0 : wordDir w ≠ 0 := by rw [hdir]; decide
    rw [decode_of_opc_process hopc, decodeP, if_pos hrsv, if_neg hdir0]
  | incr => rw [decode_of_opc_incr h.1, decodeN, if_pos h.2]
  | status => rw [decode_of_opc_status h.1, decodeN, if_pos h.2]

theorem hasFields_of_decode {i : Instr} {w : Word} (h : decode w = .ok i) : HasFields i w := by
  unfold decode decodeC decodeP decodeN at h
  split_ifs at h with h1 hC h2 hP hdir h3 hN h4 hN <;> cases h
  · exact ⟨h1, hC, rfl, rfl⟩
  · exact ⟨h2, hP, hdir, rfl⟩
  · exact ⟨h2, hP, (BitVec.eq_zero_or_eq_one _).resolve_left hdir, rfl⟩
  · exact ⟨h3, hN⟩
  · exact ⟨h4, hN⟩

theorem decode_eq_ok_iff {i : Instr} {w : Word} : decode w = .ok i ↔ HasFields i w :=
  ⟨hasFields_of_decode, decode_of_hasFields⟩

/-- The fields of each format leave no bit of the word out, so they hold a command exactly when its encoding is the
word. -/
theorem hasFields_iff_encode {i : Instr} {w : Word} : HasFields i w ↔ i.wellFormed = true ∧ encode i = w := by
  have hw := w.isLt
  cases i with
  | create klen ivlen =>
    rw [wellFormed_create, ← BitVec.toNat_inj, encode_create_toNat]
    simp only [HasFields, wordOpc, wordRsvC, wordKlen, wordIvlen, field_eq_iff, toNat_field, BitVec.reduceToNat]
    omega
  | enc len =>
    rw [wellFormed_enc, ← BitVec.toNat_inj, encode_enc_toNat]
    simp only [HasFields, wordOpc, wordRsvP, wordDir, wordLen, field_eq_iff, toNat_field, BitVec.reduceToNat]
    omega
  | dec len =>
    rw [wellFormed_dec, ← BitVec.toNat_inj, encode_dec_toNat]
    simp only [HasFields, wordOpc, wordRsvP, wordDir, wordLen, field_eq_iff, toNat_field, BitVec.reduceToNat]
    omega
  | incr =>
    have hwf : Instr.incr.wellFormed = true := rfl
    have hword : (encode .incr).toNat = 0x30000000 := rfl
    rw [← BitVec.toNat_inj, hword, iff_true_intro hwf, true_and]
    simp only [HasFields, wordOpc, wordRsvN, field_eq_iff, BitVec.reduceToNat]
    omega
  | status =>
    have hwf : Instr.status.wellFormed = true := rfl
    have hword : (encode .status).toNat = 0x40000000 := rfl
    rw [← BitVec.toNat_inj, hword, iff_true_intro hwf, true_and]
    simp only [HasFields, wordOpc, wordRsvN, field_eq_iff, BitVec.reduceToNat]
    omega

theorem decode_eq_ok_iff_encode {i : Instr} {w : Word} :
    decode w = .ok i ↔ i.wellFormed = true ∧ encode i = w :=
  decode_eq_ok_iff.trans hasFields_iff_encode

/-- Settles O1: the encoded word has the command's fields, and the decoder answers by the fields. -/
theorem decodeUndoesEncode : Obligations.DecodeUndoesEncode :=
  fun _ hwf => decode_eq_ok_iff_encode.mpr ⟨hwf, rfl⟩

/-- Settles O2: the other direction of the same equivalence. -/
theorem encodeUndoesDecode : Obligations.EncodeUndoesDecode :=
  fun _ _ => decode_eq_ok_iff_encode.mp

/-- Settles O4, by computing both directions for each of the ten words. -/
theorem encodingExamples : Obligations.EncodingExamples := by
  unfold Obligations.EncodingExamples
  decide

/-- Settles O5: the opcode picks the format, and the format's check of its reserved bits fails. -/
theorem reservedFieldsAreIllegal : Obligations.ReservedFieldsAreIllegal := by
  refine fun w => ⟨fun hopc hrsv => ?_, fun hopc hrsv => ?_, fun hopc hrsv => ?_, decode_reservedOpcode⟩
  · exact (decode_of_opc_create hopc).trans (if_neg hrsv)
  · exact (decode_of_opc_process hopc).trans (if_neg hrsv)
  · rcases hopc with hopc | hopc
    · exact (decode_of_opc_incr hopc).trans (if_neg hrsv)
    · exact (decode_of_opc_status hopc).trans (if_neg hrsv)

/-! ### The opcode map (R86, R87) -/

theorem legal_iff {w : Word} : legal w = true ↔ ∃ r ∈ opcodeMap, w &&& r.mask = r.pattern := by
  simp only [legal, List.any_eq_true, OpcodeRow.fits, beq_iff_eq]

theorem encodedRow (i : Instr) : EncodedRow.Statement i := by
  cases i with
  | create klen ivlen => exact EncodedRow.create klen ivlen
  | enc len => exact EncodedRow.enc len
  | dec len => exact EncodedRow.dec len
  | incr => exact EncodedRow.incr
  | status => exact EncodedRow.status

/-- A field that lies in the mask has the value it has in the pattern. -/
theorem field_of_masked {w m p : Word} {start len : Nat} {v : BitVec len} (h : w &&& m = p)
    (hm : m.extractLsb' start len = BitVec.allOnes len := by decide) (hp : p.extractLsb' start len = v := by decide) :
    w.extractLsb' start len = v := by
  rw [← hp, ← h, BitVec.extractLsb'_and, hm, BitVec.and_allOnes]

/-- A word that matches a row has the fields of a command of that row. -/
theorem hasFields_of_row {w : Word} {r : OpcodeRow} (hr : r ∈ opcodeMap) (h : w &&& r.mask = r.pattern) :
    ∃ i, HasFields i w := by
  simp only [opcodeMap, List.mem_cons, List.not_mem_nil, or_false] at hr
  rcases hr with rfl | rfl | rfl | rfl | rfl
  · exact ⟨.create _ _, field_of_masked h, field_of_masked h, rfl, rfl⟩
  · exact ⟨.enc _, field_of_masked h, field_of_masked h, field_of_masked h, rfl⟩
  · exact ⟨.dec _, field_of_masked h, field_of_masked h, field_of_masked h, rfl⟩
  · exact ⟨.incr, field_of_masked h, field_of_masked h⟩
  · exact ⟨.status, field_of_masked h, field_of_masked h⟩

theorem decodes_iff_row {w : Word} : (∃ i, decode w = .ok i) ↔ ∃ r ∈ opcodeMap, w &&& r.mask = r.pattern := by
  constructor
  · rintro ⟨i, hd⟩
    obtain ⟨-, rfl⟩ := decode_eq_ok_iff_encode.mp hd
    obtain ⟨hmem, hfits⟩ := encodedRow i
    exact ⟨_, hmem, beq_iff_eq.mp hfits⟩
  · rintro ⟨r, hr, h⟩
    obtain ⟨i, hi⟩ := hasFields_of_row hr h
    exact ⟨i, decode_eq_ok_iff.mpr hi⟩

/-- A word that matches two rows, masked by both, gives either pattern masked by the other mask; the patterns of two
different rows differ there. -/
theorem row_unique {w : Word} {r r' : OpcodeRow} (hr : r ∈ opcodeMap) (hr' : r' ∈ opcodeMap)
    (h : w &&& r.mask = r.pattern) (h' : w &&& r'.mask = r'.pattern) : r = r' := by
  have hapart : ∀ r ∈ opcodeMap, ∀ r' ∈ opcodeMap, r.pattern &&& r'.mask = r'.pattern &&& r.mask → r = r' := by decide
  refine hapart r hr r' hr' ?_
  rw [← h, ← h', BitVec.and_assoc, BitVec.and_comm r.mask, ← BitVec.and_assoc]

/-- Settles O3: a word that decodes is an encoded command, which fits its own row, and a word that fits a row has the
fields of a command of it; two rows are told apart under both masks. -/
theorem legalWordsMatchOneRow : Obligations.LegalWordsMatchOneRow :=
  fun _ => ⟨legal_iff, decodes_iff_row, fun _ hr _ hr' => row_unique hr hr'⟩

/-! ### One step by the word at the head of CMD (R78, R89, R100) -/

theorem step_command {s : State} {w : Word} {rest : List Word} {i : Instr} (hc : s.cmd = w :: rest)
    (hd : decode w = .ok i) (hl : i.decl ≤ s.din.length) : step s = exec i { s with cmd := rest } := by
  simp only [step, fetch_command hc hd hl]

theorem step_illegal {s : State} {w : Word} {rest : List Word} {e : IllegalWord} (hc : s.cmd = w :: rest)
    (hd : decode w = .error e) : step s = .next (raiseIllegal w { s with cmd := rest }) := by
  simp only [step, fetch_illegal hc hd]

/-- Settles O6: the fetch finds the decoded command. -/
theorem stepRunsDecodedInstruction : Obligations.StepRunsDecodedInstruction :=
  fun _ _ _ _ => step_command

/-- Settles O9: a word that matches no row does not decode. -/
theorem illegalWordAnswersIllegalCommand : Obligations.IllegalWordAnswersIllegalCommand := by
  intro s w rest hc hrow
  cases hd : decode w with
  | ok i => exact absurd (decodes_iff_row.mp ⟨i, hd⟩) hrow
  | error e => exact step_illegal hc hd

/-! ### The declared payload (R91) -/

theorem declWord_ok {w : Word} {i : Instr} (h : decode w = .ok i) : declWord w = i.decl := by
  simp only [declWord, h]

theorem declWord_error {w : Word} {e : IllegalWord} (h : decode w = .error e) : declWord w = 0 := by
  simp only [declWord, h]

/-! ### What a command does to the channels after its payload is popped (R69, R91, R93 to R95) -/

/-- The response `r` of a command from `s` to `t`. -/
inductive Response (s t : State) : Word → Prop
  /-- The common layout, with the STAT of the state after the command. -/
  | common (c : Code) (arg acc : Byte) (hc : c ≠ .primitiveFailure) : Response s t (respWord c arg acc t)
  /-- PRIMITIVE_FAILURE, which sets FLT. -/
  | failure (n : Nat) (hbefore : s.flt = false) (hafter : t.flt = true) : Response s t (failureWord n)

/-- The channels of `u` are those of `s` with `out` put out and no response yet. -/
structure PutsOut (s u : State) (out : List Byte) : Prop where
  cmd : u.cmd = s.cmd
  din : u.din = s.din
  dout : u.dout = s.dout ++ out
  rsp : u.rsp = s.rsp

/-- From `s` to `t`, some bytes were put out and one response was pushed; CMD and DIN are as they were. -/
def Answers (s t : State) : Prop :=
  ∃ out r, t.cmd = s.cmd ∧ t.din = s.din ∧ t.dout = s.dout ++ out ∧ t.rsp = s.rsp ++ [r] ∧ Response s t r

theorem PutsOut.refl (s : State) : PutsOut s s [] := ⟨rfl, rfl, (List.append_nil _).symm, rfl⟩

theorem PutsOut.construct (v : Variant) (key iv : List Byte) (s : State) : PutsOut s (construct v key iv s) [] :=
  ⟨rfl, rfl, (List.append_nil _).symm, rfl⟩

theorem PutsOut.doutPush (b : List Byte) (s : State) : PutsOut s (doutPush b s) b := ⟨rfl, rfl, rfl, rfl⟩

theorem PutsOut.commitRun (d : Dir) (r : XorRun) (s : State) : PutsOut s (commitRun d r s) r.out :=
  ⟨commitRun_cmd .., commitRun_din .., commitRun_dout .., commitRun_rsp ..⟩

theorem PutsOut.respond {s u : State} {out : List Byte} (h : PutsOut s u out) {c : Code} (hc : c ≠ .primitiveFailure)
    (arg acc : Byte) : Answers s (respond c arg acc u) :=
  ⟨out, _, h.cmd, h.din, h.dout, congrArg (· ++ _) h.rsp, .common c arg acc hc⟩

theorem PutsOut.complete {s u : State} {out : List Byte} (h : PutsOut s u out) : Answers s (complete u) :=
  h.respond (c := .ok) (by decide) 0 0

theorem PutsOut.failPrimitive {s u : State} {out : List Byte} (h : PutsOut s u out) (hf : s.flt = false) (n : Nat) :
    Answers s (failPrimitive n u) :=
  ⟨out, _, h.cmd, h.din, h.dout, congrArg (· ++ _) h.rsp, .failure n hf rfl⟩

theorem raise_answers {c : Code} (hc : c ≠ .primitiveFailure) (arg acc : Byte) (s : State) :
    Answers s (raise c arg acc s) :=
  (PutsOut.refl s).respond hc arg acc

theorem unlessFaulted_answers {body : List Byte → State → State} {p : List Byte} {s : State}
    (h : s.flt = false → Answers s (body p s)) : Answers s (unlessFaulted body p s) := by
  cases hf : s.flt with
  | true => rw [unlessFaulted_faulted hf]; exact raise_answers (by decide) ..
  | false => rw [unlessFaulted_clear hf]; exact h hf

theorem createBody_answers (klen ivlen : Nat) (p : List Byte) (s : State) : Answers s (createBody klen ivlen p s) := by
  rcases createBody_cases klen ivlen p s with ⟨-, he⟩ | ⟨-, -, -, he⟩ | ⟨v, -, -, he⟩ <;> rw [he]
  · exact raise_answers (by decide) ..
  · exact raise_answers (by decide) ..
  · exact (PutsOut.construct ..).complete

theorem process_answers (d : Dir) (p : List Byte) {s : State} (hf : s.flt = false) :
    Answers s (process Config.primitive d p s) := by
  cases hv : s.hv with
  | false => rw [process_noHandle _ d p hv]; exact raise_answers (by decide) ..
  | true =>
    rw [process_handle _ d p hv]
    split
    · exact (PutsOut.commitRun ..).failPrimitive hf _
    · exact (PutsOut.commitRun ..).complete

theorem incrBody_answers (b : List Byte) (s : State) : Answers s (incrBody b s) :=
  (PutsOut.doutPush ..).complete

/-- A command whose payload is in DIN pops exactly that payload, then answers. -/
theorem exec_answers {i : Instr} {s : State} (hl : i.decl ≤ s.din.length) :
    ∃ t, exec i s = .next t ∧ Answers { s with din := s.din.drop i.decl } t := by
  cases i with
  | create klen ivlen => exact ⟨_, exec_create hl, unlessFaulted_answers fun _ => createBody_answers ..⟩
  | enc len => exact ⟨_, exec_enc hl, unlessFaulted_answers (process_answers .enc _)⟩
  | dec len => exact ⟨_, exec_dec hl, unlessFaulted_answers (process_answers .dec _)⟩
  | incr => exact ⟨_, exec_incr hl, unlessFaulted_answers fun _ => incrBody_answers ..⟩
  | status => exact ⟨_, exec_status s, (PutsOut.refl s).complete⟩

/-- An enabled step pops its word and exactly DECL of it, then answers. -/
theorem step_answers {s : State} {w : Word} {rest : List Word} (hc : s.cmd = w :: rest)
    (hl : declWord w ≤ s.din.length) :
    ∃ t, step s = .next t ∧ Answers { s with cmd := rest, din := s.din.drop (declWord w) } t := by
  cases hd : decode w with
  | ok i =>
    rw [declWord_ok hd] at hl ⊢
    rw [step_command hc hd hl]
    exact exec_answers (s := { s with cmd := rest }) hl
  | error e =>
    rw [declWord_error hd]
    exact ⟨_, step_illegal hc hd, raise_answers (by decide) ..⟩

/-- Settles O10: DECL by the decoded command, the pops by `step_answers`. -/
theorem commandPopsDeclaredPayload : Obligations.CommandPopsDeclaredPayload := by
  refine ⟨fun w => ⟨fun _ _ => declWord_ok, ?_, declWord_ok, declWord_ok, fun _ => declWord_error⟩, ?_⟩
  · rintro len (hd | hd)
    · exact declWord_ok hd
    · exact declWord_ok hd
  · intro s w rest hc hl
    obtain ⟨t, hstep, out, r, hcmd, hdin, hdout, hrsp, -⟩ := step_answers hc hl
    exact ⟨t, out, r, hstep, hcmd, hdin, hdout, hrsp⟩

/-! ### The fields of a response (R93 to R95) -/

section
variable {s t : State} {r : Word}

theorem Response.code_le (h : Response s t r) : (r.extractLsb' 24 8).toNat ≤ 6 := by
  cases h with
  | common c arg acc => rw [respWord_code]; exact codeBits_le c
  | failure n => rw [failureWord_code]; decide

theorem Response.stat_of_code_ne (h : Response s t r) (hr : r.extractLsb' 24 8 ≠ 0x05#8) :
    r.extractLsb' 0 8 = stat t := by
  cases h with
  | common c arg acc => exact respWord_stat c arg acc t
  | failure n => exact absurd (failureWord_code n) hr

theorem Response.flt_of_code_eq (h : Response s t r) (hr : r.extractLsb' 24 8 = 0x05#8) :
    s.flt = false ∧ t.flt = true := by
  cases h with
  | common c arg acc hc => exact absurd (codeBits_inj (c' := .primitiveFailure) ((respWord_code ..).symm.trans hr)) hc
  | failure n hbefore hafter => exact ⟨hbefore, hafter⟩

end

/-- Settles O11: the response of an enabled step is one of the two layouts, each with its own code. -/
theorem responseCarriesCodeAndStat : Obligations.ResponseCarriesCodeAndStat := by
  intro s w rest hc hl
  obtain ⟨t, hstep, -, r, -, -, -, hrsp, hresponse⟩ := step_answers hc hl
  exact ⟨t, r, hstep, hrsp, hresponse.code_le, hresponse.stat_of_code_ne, hresponse.flt_of_code_eq⟩

end Sys2Proof.Proofs.Encoding
end

section
/-!
PROOFS of the statements of spec/40_mode_selector.md: the mode selector (R110, R112). One equation per branch of
`selectMode`.
-/

namespace Sys2Proof.Proofs.ModeSelector

open Sys2Proof Sys2Proof.Machine

@[simp] theorem selectMode_sixteen : selectMode 16 = some .v128 := rfl

@[simp] theorem selectMode_thirtyTwo : selectMode 32 = some .v256 := rfl

theorem selectMode_eq_none {klen : Nat} (h16 : klen ≠ 16) (h32 : klen ≠ 32) : selectMode klen = none := by
  rw [selectMode, if_neg h16, if_neg h32]

/-- Settles O17, by the three branches of `selectMode`. -/
theorem modeSelectorAcceptsTwoLengths : Obligations.ModeSelectorAcceptsTwoLengths :=
  ⟨selectMode_sixteen, selectMode_thirtyTwo, fun _ => selectMode_eq_none⟩

end Sys2Proof.Proofs.ModeSelector
end

section
/-!
PROOFS of the statements of spec/41_counter_block.md: Inc as addition modulo 2^128 and its period (R120, R122), the
carry ripple that computes it on bytes (R121), the sessions a CREATE seeds from its IV (R123), INCR (R124), and a
streaming command whose one block is of the counter before the wrap (R122, R135).
-/

namespace Sys2Proof.Proofs.CounterBlock

open Sys2Proof Sys2Proof.Machine Sys2Proof.Laws Sys2Proof.Proofs.ModeSelector

/-! ### INCR (R120, R122, R124) -/

/-- The number INCR puts out is its payload's plus one. -/
theorem beNat_incremented {b : List Byte} (h : b.length = 16) :
    beNat (bytes128 (inc (be128 b))).toList = (beNat b + 1) % 2 ^ 128 := by
  rw [beNat_bytes128, inc_toNat, be128_toNat h]

theorem exec_incr_clear {s : State} (hf : s.flt = false) (hl : 16 ≤ s.din.length) :
    exec .incr s = .next { s with
      din := s.din.drop 16, dout := s.dout ++ (bytes128 (inc (be128 (s.din.take 16)))).toList,
      rsp := s.rsp ++ [0x000000#24 ++ stat s] } := by
  rw [exec_incr hl, unlessFaulted_clear (by exact hf), ← respWord_ok]
  rfl

/-- Settles O39: the number by `beNat_incremented`; 16 bytes 0xFF are the number 2^128 − 1. -/
theorem incrAddsOneModulo : Obligations.IncrAddsOneModulo := by
  refine ⟨inc_toNat, fun s hf hl => ?_⟩
  have hnum := beNat_incremented (List.length_take_of_le hl)
  refine ⟨_, length_bytes128 _, hnum, fun hones => ?_, exec_incr_clear hf hl⟩
  have hzero : (beNat (List.replicate 16 0xFF) + 1) % 2 ^ 128 = beNat (zeros 16) := by decide
  exact beNat_inj (by simp) (hnum.trans (hones ▸ hzero))

/-! ### The carry ripple (R121) -/

/-- One byte of the ripple, from the last: it takes the one, and carries where it becomes zero. -/
theorem incBytes_concat (l : List Byte) (b : Byte) :
    incBytes (l ++ [b]) = (if b + 1 = 0 then incBytes l else l) ++ [b + 1] := by
  rw [incBytes, List.reverse_concat, incBytesLE]
  by_cases hb : b + 1 = 0
  · rw [if_neg (not_not.mpr hb), if_pos hb, List.reverse_cons, incBytes]
  · rw [if_pos hb, if_neg hb, List.reverse_cons, List.reverse_reverse]

@[simp] theorem length_incBytes (l : List Byte) : (incBytes l).length = l.length := by
  induction l using List.reverseRecOn with
  | nil => rfl
  | append_singleton l b ih =>
    rw [incBytes_concat]
    split <;> simp [ih]

/-- A byte that becomes zero was 0xFF. -/
theorem toNat_of_add_one_eq_zero {b : Byte} (h : b + 1 = 0) : b.toNat = 255 := by bv_omega

theorem toNat_add_one {b : Byte} (h : b + 1 ≠ 0) : (b + 1).toNat = b.toNat + 1 := by bv_omega

/-- The ripple adds one modulo 256^n, where n is the string's length. -/
theorem beNat_incBytes (l : List Byte) : beNat (incBytes l) = (beNat l + 1) % 2 ^ (8 * l.length) := by
  induction l using List.reverseRecOn with
  | nil => rfl
  | append_singleton l b ih =>
    have hlt := beNat_lt (l ++ [b + 1])
    have hpow : 2 ^ (8 * (l.length + 1)) = 2 ^ (8 * l.length) * 2 ^ 8 := by rw [← Nat.pow_add, Nat.mul_add]
    rw [beNat_concat, List.length_append, List.length_singleton] at hlt
    rw [incBytes_concat, beNat_concat, beNat_concat, List.length_append, List.length_singleton]
    by_cases hb : b + 1 = 0
    · have hcarry : beNat l * 2 ^ 8 + 255 + 1 = (beNat l + 1) * 2 ^ 8 := by omega
      rw [if_pos hb, ih, toNat_of_add_one_eq_zero hb, hcarry, hpow, Nat.mul_mod_mul_right, hb,
        BitVec.ofNat_eq_ofNat, BitVec.toNat_zero, Nat.add_zero]
    · rw [toNat_add_one hb, ← Nat.add_assoc] at hlt
      rw [if_neg hb, toNat_add_one hb, ← Nat.add_assoc, Nat.mod_eq_of_lt hlt]

/-- Settles O40: both sides have 16 bytes and one number. -/
theorem incrementRipplesCarry : Obligations.IncrementRipplesCarry := fun b hb =>
  beNat_inj (by simp [hb]) (by rw [beNat_incremented hb, beNat_incBytes, hb])

/-! ### The sessions a CREATE seeds (R123, R171) -/

theorem selectMode_eq_some_iff {klen : Nat} {v : Variant} :
    selectMode klen = some v ↔ klen = 16 ∧ v = .v128 ∨ klen = 32 ∧ v = .v256 := by
  unfold selectMode
  split_ifs with h16 h32
  · simp [h16, eq_comm]
  · simp [h32, eq_comm]
  · simp [h16, h32]

theorem exec_create_accepted {s : State} {klen : Nat} {v : Variant} (hf : s.flt = false)
    (hm : selectMode klen = some v) (hl : klen + 16 ≤ s.din.length) :
    exec (.create klen 16) s = .next (complete
      (construct v (s.din.take klen) ((s.din.drop klen).take 16) { s with din := s.din.drop (klen + 16) })) := by
  have hkey : keySlice klen (s.din.take (klen + 16)) = s.din.take klen := by simp [keySlice, List.take_take]
  have hiv : ivSlice klen 16 (s.din.take (klen + 16)) = (s.din.drop klen).take 16 := by
    simp [ivSlice, List.drop_take]
  rw [exec_create hl, unlessFaulted_clear (by exact hf), createBody, hm, hkey, hiv]
  rfl

/-- The primitive is given the key as it was presented (R34). -/
theorem keyBytes_keyRegister {key : List Byte} {v : Variant} (hm : selectMode key.length = some v) :
    keyBytes v (keyRegister key) = key := by
  rcases selectMode_eq_some_iff.mp hm with ⟨h16, rfl⟩ | ⟨h32, rfl⟩
  · rw [keyBytes, keyRegister_toList (by omega), List.take_left' h16]
  · rw [keyBytes, keyRegister_toList (by omega), h32]
    exact List.append_nil key

theorem atPosition_seedSession (v : Variant) (key iv : List Byte) : AtPosition v key iv 0 (seedSession iv) where
  ctr := (BitVec.add_zero _).symm
  off := rfl
  ks h := absurd rfl h

/-- Settles O23: the handle is `construct`'s, and both its sessions are the IV's seed. -/
theorem createStartsKeyStreamAtIv : Obligations.CreateStartsKeyStreamAtIv := by
  intro s klen hf hk hl
  obtain ⟨v, hm⟩ : ∃ v, selectMode klen = some v := by
    rcases hk with rfl | rfl
    · exact ⟨_, selectMode_sixteen⟩
    · exact ⟨_, selectMode_thirtyTwo⟩
  have hkey : (s.din.take klen).length = klen := List.length_take_of_le (by omega)
  have hiv : ((s.din.drop klen).take 16).length = 16 := List.length_take_of_le (by rw [List.length_drop]; omega)
  refine ⟨_, exec_create_accepted hf hm hl, keyBytes_keyRegister (hkey.symm ▸ hm), fun d => ?_, bytes128_be128 hiv⟩
  cases d with
  | enc => exact ⟨rfl, atPosition_seedSession ..⟩
  | dec => exact ⟨rfl, atPosition_seedSession ..⟩

/-! ### The period of Inc (R122) -/

theorem inc_iterate (c : BitVec 128) (n : Nat) : inc^[n] c = c + BitVec.ofNat 128 n := by
  induction n with
  | zero => exact (BitVec.add_zero c).symm
  | succ n ih => rw [Function.iterate_succ_apply', ih, inc, BitVec.add_assoc, BitVec.ofNat_add]; rfl

theorem inc_iterate_eq_self_iff (c : BitVec 128) (n : Nat) : inc^[n] c = c ↔ 2 ^ 128 ∣ n := by
  rw [inc_iterate, add_eq_left, Nat.dvd_iff_mod_eq_zero, ← BitVec.toNat_inj, BitVec.toNat_ofNat]
  rfl

/-! ### Runs within one block (R140, R145) -/

/-- A session moved on by `n` bytes of its block. -/
def advance (S : Session) (n : Nat) : Session := { S with off := Fin.ofNat 17 (S.off.val + n) }

theorem advance_zero (S : Session) : advance S 0 = S := by simp [advance]

theorem advance_useByte {S : Session} (h : S.off.val < 16) (n : Nat) :
    advance (useByte S) n = advance S (n + 1) := by
  rw [advance, useByte_off h, Nat.add_assoc, Nat.add_comm 1]
  rfl

section
variable {ask : Nat → Block → Option Block} {p : List Byte} {n : Nat} {S : Session} {k : Block}

/-- A session with its next block in KS (R135). -/
def refilled (S : Session) (k : Block) : Session := { ctr := inc S.ctr, ks := k, off := 0 }

theorem refill_residual (h : S.off ≠ 16) : refill ask n S = some (S, n) := if_neg h

theorem refill_block (ho : S.off = 16) (ha : ask n (bytes128 S.ctr) = some k) :
    refill ask n S = some (refilled S k, n + 1) := by
  simp only [refill, nextBlock, if_pos ho, ha, refilled]

theorem refill_failure (ho : S.off = 16) (ha : ask n (bytes128 S.ctr) = none) : refill ask n S = none := by
  simp only [refill, nextBlock, if_pos ho, ha]

/-- The unused bytes of a block are the next one and the rest. -/
theorem drop_ks (h : S.off.val < 16) :
    S.ks.toList.drop S.off.val = keyByte S :: S.ks.toList.drop (S.off.val + 1) := by
  have hlen : S.off.val < S.ks.toList.length := by simpa using h
  rw [keyByte, List.getD_eq_getElem _ _ hlen, List.drop_eq_getElem_cons hlen]

/-- A payload no longer than the residual is served from it, with no invocation. -/
theorem xorPath_residual (p : List Byte) (h : S.off.val + p.length ≤ 16) :
    xorPath ask p n S =
      { out := List.zipWith (fun b x => b ^^^ x) p (S.ks.toList.drop S.off.val), session := advance S p.length,
        drawn := n, failed := false } := by
  induction p generalizing S with
  | nil => simp [advance_zero]
  | cons b p ih =>
    rw [List.length_cons] at h
    have hlt : S.off.val < 16 := by omega
    have hne : S.off ≠ 16 := fun he => absurd (congrArg Fin.val he) (Nat.ne_of_lt hlt)
    have hoff := useByte_off hlt
    rw [xorPath_cons_some (refill_residual hne), ih (by omega), hoff, advance_useByte hlt, drop_ks hlt]
    rfl

/-- An empty residual is filled by the first byte; from then on the run is one on a session with the block in it. -/
theorem xorPath_refilled (hp : p ≠ []) (ho : S.off = 16) (ha : ask n (bytes128 S.ctr) = some k) :
    xorPath ask p n S = xorPath ask p (n + 1) (refilled S k) := by
  obtain ⟨b, p, rfl⟩ := List.exists_cons_of_ne_nil hp
  have hne : (refilled S k).off ≠ 16 := show (0 : Fin 17) ≠ 16 by decide
  rw [xorPath_cons_some (refill_block ho ha), xorPath_cons_some (refill_residual hne)]

theorem xorPath_one_block (hp : p ≠ []) (hl : p.length ≤ 16) (ho : S.off = 16)
    (ha : ask n (bytes128 S.ctr) = some k) :
    xorPath ask p n S =
      { out := List.zipWith (fun b x => b ^^^ x) p k.toList,
        session := { ctr := inc S.ctr, ks := k, off := Fin.ofNat 17 p.length }, drawn := n + 1, failed := false } := by
  rw [xorPath_refilled hp ho ha, xorPath_residual p (by simpa [refilled] using hl)]
  simp [refilled, advance]

theorem xorPath_first_fails (hp : p ≠ []) (ho : S.off = 16) (ha : ask n (bytes128 S.ctr) = none) :
    xorPath ask p n S = { out := [], session := S, drawn := n + 1, failed := true } := by
  obtain ⟨b, p, rfl⟩ := List.exists_cons_of_ne_nil hp
  exact xorPath_cons_fail (refill_failure ho ha) b p

end

/-! ### A command on an empty residual (R135, R148, R149, R196) -/

theorem exec_instr_run (d : Dir) {len : Nat} {s : State} (hv : s.hv = true) (hf : s.flt = false)
    (hl : len ≤ s.din.length) :
    exec (d.instr len) s = .next (
      if (runOf d (s.din.take len) s).failed then
        failPrimitive (runOf d (s.din.take len) s).out.length
          (commitRun d (runOf d (s.din.take len) s) { s with din := s.din.drop len })
      else complete (commitRun d (runOf d (s.din.take len) s) { s with din := s.din.drop len })) :=
  match d with
  | .enc => execEnc_run hv hf hl
  | .dec => execDec_run hv hf hl

theorem failureWord_zero : failureWord 0 = 0x05000000 := by decide

/-- ENC or DEC of 1 to 16 bytes on a session with an empty residual: one invocation, on its counter. -/
theorem exec_instr_one_block (d : Dir) {len : Nat} {s : State} (hv : s.hv = true) (hf : s.flt = false) (h1 : 1 ≤ len)
    (h16 : len ≤ 16) (hl : len ≤ s.din.length) (ho : (s.session d).off = 16) :
    exec (d.instr len) s = .next (if Config.primFails s.stream s.drawn then
        { s with flt := true, drawn := s.drawn + 1, din := s.din.drop len, rsp := s.rsp ++ [0x05000000] }
      else
        { s.setSession d
            { ctr := inc (s.session d).ctr, ks := cipherBlock s.var s.key (s.session d).ctr,
              off := Fin.ofNat 17 len } with
          drawn := s.drawn + 1, din := s.din.drop len,
          dout := s.dout ++
            List.zipWith (fun b k => b ^^^ k) (s.din.take len) (cipherBlock s.var s.key (s.session d).ctr).toList,
          rsp := s.rsp ++ [0x000000#24 ++ stat s] }) := by
  have hlen : (s.din.take len).length = len := List.length_take_of_le hl
  have hp : s.din.take len ≠ [] := List.ne_nil_of_length_pos (by omega)
  rw [exec_instr_run d hv hf hl]
  cases hfail : Config.primFails s.stream s.drawn with
  | true =>
    rw [runOf, xorPath_first_fails hp ho (askPrimitive_fail hfail _)]
    cases d <;> simp [failPrimitive, rspPush, commitRun, doutPush, failureWord_zero]
  | false =>
    rw [runOf, xorPath_one_block hp (hlen.symm ▸ h16) ho (askPrimitive_ok hfail _), hlen, ← respWord_ok]
    cases d <;> rfl

/-- Settles O50: the period by `inc_iterate`, and Inc of the counter of all ones is 0. -/
theorem counterWrapsWithoutError : Obligations.CounterWrapsWithoutError := by
  refine ⟨inc_iterate_eq_self_iff, fun d len s hv hf h1 h16 hl ho hctr => ?_⟩
  have hwrap : inc (BitVec.allOnes 128) = 0 := by decide
  simpa only [hctr, hwrap] using exec_instr_one_block d hv hf h1 h16 hl ho

end Sys2Proof.Proofs.CounterBlock
end

section
/-!
PROOFS of the statements of spec/42_keystream.md: what ENC and DEC do, said once as a run of the XOR path written back;
the position of a session in its key stream, moved on by every byte of a run (R139); the sessions of a handle over steps
and runs (R40, R142, R171); the blocks of a command (R141); and the wrap of the counter (R143).
-/

namespace Sys2Proof.Proofs.KeyStream

open Sys2Proof Sys2Proof.Machine Sys2Proof.Laws Sys2Proof.Proofs.Registers Sys2Proof.Proofs.ModeSelector
  Sys2Proof.Proofs.CounterBlock

/-! ### ENC and DEC as one run written back (R145, R148, R149) -/

theorem exec_instr (d : Dir) {len : Nat} {s : State} (hl : len ≤ s.din.length) :
    exec (d.instr len) s = .next (unlessFaulted (process Config.primitive d) (s.din.take len)
      { s with din := s.din.drop len }) :=
  match d with
  | .enc => exec_enc hl
  | .dec => exec_dec hl

theorem exec_instr_clear (d : Dir) {len : Nat} {s : State} (hf : s.flt = false) (hl : len ≤ s.din.length) :
    exec (d.instr len) s =
      .next (process Config.primitive d (s.din.take len) { s with din := s.din.drop len }) := by
  rw [exec_instr d hl, unlessFaulted_clear (by exact hf)]

@[simp] theorem session_complete (d : Dir) (s : State) : (complete s).session d = s.session d := by
  cases d <;> rfl

@[simp] theorem session_failPrimitive (d : Dir) (n : Nat) (s : State) :
    (failPrimitive n s).session d = s.session d := by
  cases d <;> rfl

/-- From `s` to `t` the run `r` of the XOR path was written back to the bank of `d`, and FLT set if it failed. -/
structure WroteRun (d : Dir) (r : XorRun) (s t : State) : Prop where
  hv : t.hv = s.hv
  var : t.var = s.var
  key : t.key = s.key
  stream : t.stream = s.stream
  flt : t.flt = (s.flt || r.failed)
  drawn : t.drawn = r.drawn
  dout : t.dout = s.dout ++ r.out
  bank : t.session d = r.session
  other : ∀ d', d' ≠ d → t.session d' = s.session d'

theorem process_wroteRun (P : Primitive) (d : Dir) (p : List Byte) {s : State} (hv : s.hv = true) :
    WroteRun d (xorPath (askPrimitive P s) p s.drawn (s.session d)) s (process P d p s) := by
  rw [process_handle P d p hv]
  generalize xorPath (askPrimitive P s) p s.drawn (s.session d) = r
  have hother : ∀ d', d' ≠ d → (commitRun d r s).session d' = s.session d' :=
    fun _ h => commitRun_session_other h r s
  cases hr : r.failed with
  | true => constructor <;> simp +contextual [hr, hother]
  | false => constructor <;> simp +contextual [hr, hother]

theorem exec_instr_wroteRun (d : Dir) {len : Nat} {s : State} (hv : s.hv = true) (hf : s.flt = false)
    (hl : len ≤ s.din.length) :
    ∃ t, exec (d.instr len) s = .next t ∧ WroteRun d (runOf d (s.din.take len) s) s t := by
  refine ⟨_, exec_instr_clear d hf hl, ?_⟩
  obtain ⟨hhv, hvar, hkey, hstream, hflt, hdrawn, hdout, hbank, hother⟩ :=
    process_wroteRun Config.primitive d (s.din.take len) (s := { s with din := s.din.drop len }) hv
  exact ⟨hhv, hvar, hkey, hstream, hflt, hdrawn, hdout, hbank, hother⟩

/-- A faulted engine and one without a handle refuse ENC and DEC (R194, R197). -/
theorem exec_instr_refused {d : Dir} {len : Nat} {s : State} (h : s.flt = true ∨ s.hv = false)
    (hl : len ≤ s.din.length) :
    ∃ t, exec (d.instr len) s = .next t ∧ SameRegisters s t ∧ t.dout = s.dout := by
  refine ⟨_, exec_instr d hl, ?_⟩
  by_cases hf : s.flt = true
  · rw [unlessFaulted_faulted (by exact hf)]
    exact ⟨SameRegisters.refl s, rfl⟩
  · rw [unlessFaulted_clear (by exact Bool.eq_false_of_not_eq_true hf),
      process_noHandle _ d _ (by exact h.resolve_left hf)]
    exact ⟨SameRegisters.refl s, rfl⟩

/-! ### The position of a session in a key stream, over any cipher (R135, R139) -/

/-- The primitive asked for blocks answers, where it answers, with the cipher `E`. -/
def AnswersWith (E : Block → Block) (ask : Nat → Block → Option Block) : Prop :=
  ∀ n block k, ask n block = some k → k = E block

theorem askPrimitive_answersWith (P : Primitive) (s : State) :
    AnswersWith (P.encrypt s.var (keyBytes s.var s.key)) (askPrimitive P s) := by
  intro n block k h
  unfold askPrimitive at h
  split at h
  · cases h
  · exact (Option.some.inj h).symm

/-- The attached primitive answers with BLOCK_ENCRYPT under the handle's key (R15, R137). -/
theorem askConfig_answersWith (s : State) :
    AnswersWith (Config.blockEncrypt s.var (keyBytes s.var s.key)) (askPrimitive Config.primitive s) :=
  askPrimitive_answersWith Config.primitive s

/-- Block `n` of the key stream that the cipher `E` makes from the counter `c`. -/
def streamBlock (E : Block → Block) (c : BitVec 128) (n : Nat) : Block := E (bytes128 (c + BitVec.ofNat 128 n))

/-- Byte `t` of that key stream. -/
def streamByte (E : Block → Block) (c : BitVec 128) (t : Nat) : Byte :=
  (streamBlock E c (t / 16)).toList.getD (t % 16) 0

/-- The first `n` bytes of a payload XORed with the key stream from byte `t` on. -/
def streamMask (E : Block → Block) (c : BitVec 128) (t : Nat) (p : List Byte) (n : Nat) : List Byte :=
  (List.range n).map fun j => p.getD j 0 ^^^ streamByte E c (t + j)

theorem streamMask_cons (E : Block → Block) (c : BitVec 128) (t : Nat) (b : Byte) (p : List Byte) (n : Nat) :
    streamMask E c t (b :: p) (n + 1) = (b ^^^ streamByte E c t) :: streamMask E c (t + 1) p n := by
  simp [streamMask, List.range_succ_eq_map, Function.comp_def, Nat.add_assoc, Nat.add_comm 1]

theorem length_streamMask (E : Block → Block) (c : BitVec 128) (t : Nat) (p : List Byte) (n : Nat) :
    (streamMask E c t p n).length = n := by
  simp [streamMask]

/-- The session has used exactly the first `t` bytes of the key stream of `E` from `c`: `AtPosition` over any cipher
and counter. -/
structure Stands (E : Block → Block) (c : BitVec 128) (t : Nat) (S : Session) : Prop where
  ctr : S.ctr = c + BitVec.ofNat 128 ((t + 15) / 16)
  off : S.off.val = if t % 16 = 0 then 16 else t % 16
  ks : t % 16 ≠ 0 → S.ks = streamBlock E c (t / 16)

theorem atPosition_iff_stands {v : Variant} {k iv : List Byte} {t : Nat} {S : Session} :
    AtPosition v k iv t S ↔ Stands (Config.blockEncrypt v k) (be128 iv) t S :=
  ⟨fun ⟨ctr, off, ks⟩ => ⟨ctr, off, ks⟩, fun ⟨ctr, off, ks⟩ => ⟨ctr, off, ks⟩⟩

theorem inc_add_ofNat (c : BitVec 128) (n : Nat) : inc (c + BitVec.ofNat 128 n) = c + BitVec.ofNat 128 (n + 1) := by
  rw [inc, BitVec.add_assoc, BitVec.ofNat_add]
  rfl

section
variable {E : Block → Block} {ask : Nat → Block → Option Block} {c : BitVec 128} {t n m : Nat} {S S' : Session}

theorem Stands.off_eq_sixteen_iff (h : Stands E c t S) : S.off = 16 ↔ t % 16 = 0 := by
  have hoff := h.off
  have hval : S.off = 16 ↔ S.off.val = 16 := Fin.ext_iff
  split at hoff <;> omega

/-- Within a block: byte `t` of the stream is the next one of KS. -/
structure InBlock (E : Block → Block) (c : BitVec 128) (t : Nat) (S : Session) : Prop where
  ctr : S.ctr = c + BitVec.ofNat 128 (t / 16 + 1)
  off : S.off.val = t % 16
  ks : S.ks = streamBlock E c (t / 16)

/-- After a refill the next key-stream byte is there, whether its block was new or not (R140). -/
theorem Stands.refill_inBlock (h : Stands E c t S) (ha : AnswersWith E ask) (hr : refill ask n S = some (S', m)) :
    InBlock E c t S' := by
  have hempty := h.off_eq_sixteen_iff
  obtain ⟨hctr, hoff, hks⟩ := h
  rcases refill_cases ask n S with ⟨ho, hr'⟩ | ⟨-, -, hr'⟩ | ⟨k, ho, hk, hr'⟩ <;> cases hr'.symm.trans hr
  · have ht : t % 16 ≠ 0 := mt hempty.mpr ho
    have hblock : (t + 15) / 16 = t / 16 + 1 := by omega
    exact ⟨hblock ▸ hctr, hoff.trans (if_neg ht), hks ht⟩
  · have ht : t % 16 = 0 := hempty.mp ho
    have hblock : (t + 15) / 16 = t / 16 := by omega
    rw [hblock] at hctr
    exact ⟨by rw [hctr, inc_add_ofNat], ht.symm, by rw [ha _ _ _ hk, hctr, streamBlock]⟩

theorem InBlock.keyByte_eq (h : InBlock E c t S) : keyByte S = streamByte E c t := by
  rw [keyByte, h.ks, h.off, streamByte]

theorem InBlock.stands_useByte (h : InBlock E c t S) : Stands E c (t + 1) (useByte S) := by
  obtain ⟨hctr, hoff, hks⟩ := h
  have hblock : (t + 1 + 15) / 16 = t / 16 + 1 := by omega
  refine ⟨hblock.symm ▸ hctr, ?_, fun ht => ?_⟩
  · rw [useByte_off (by omega), hoff]
    split <;> omega
  · have hsame : (t + 1) / 16 = t / 16 := by omega
    rw [useByte_ks, hks, hsame]

/-- A run moves the session on by the bytes it put out, through a failure too. -/
theorem Stands.xorPath_session (h : Stands E c t S) (ha : AnswersWith E ask) (p : List Byte) (n : Nat) :
    Stands E c (t + (xorPath ask p n S).out.length) (xorPath ask p n S).session := by
  induction p generalizing n t S with
  | nil => exact h
  | cons b p ih =>
    cases hr : refill ask n S with
    | none => rw [xorPath_cons_fail hr]; exact h
    | some a =>
      obtain ⟨S', m⟩ := a
      have hnext := ih (h.refill_inBlock ha hr).stands_useByte m
      rw [xorPath_cons_some hr, emit_out, emit_session, List.length_cons, Nat.add_comm _ 1, ← Nat.add_assoc]
      exact hnext

/-- A run puts out its payload XORed with the key stream from the session's position on, in order. -/
theorem Stands.xorPath_out (h : Stands E c t S) (ha : AnswersWith E ask) (p : List Byte) (n : Nat) :
    (xorPath ask p n S).out = streamMask E c t p (xorPath ask p n S).out.length := by
  induction p generalizing n t S with
  | nil => rfl
  | cons b p ih =>
    cases hr : refill ask n S with
    | none => rw [xorPath_cons_fail hr]; rfl
    | some a =>
      obtain ⟨S', m⟩ := a
      have hblock := h.refill_inBlock ha hr
      rw [xorPath_cons_some hr, emit_out, List.length_cons, streamMask_cons, hblock.keyByte_eq]
      exact congrArg _ (ih hblock.stands_useByte m)

end

/-! ### ENC and DEC follow their handle's key stream (R139, R40) -/

theorem xorPath_length_le (ask : Nat → Block → Option Block) (p : List Byte) (n : Nat) (S : Session) :
    (xorPath ask p n S).out.length ≤ p.length := by
  have h := xorPath_length ask p n S
  split at h <;> omega

theorem WroteRun.atPosition {d : Dir} {p iv : List Byte} {T : Nat} {s t : State} (h : WroteRun d (runOf d p s) s t)
    (hs : AtPosition s.var (keyBytes s.var s.key) iv T (s.session d)) :
    AtPosition t.var (keyBytes t.var t.key) iv (T + (runOf d p s).out.length) (t.session d) := by
  rw [h.var, h.key, h.bank, atPosition_iff_stands]
  exact (atPosition_iff_stands.mp hs).xorPath_session (askConfig_answersWith s) p s.drawn

/-- Settles O35: the run's output by `Stands.xorPath_out`, the session it leaves by `Stands.xorPath_session`. -/
theorem processFollowsKeyStream : Obligations.ProcessFollowsKeyStream := by
  intro d len s iv T hv hf hl hs
  obtain ⟨t, hexec, hrun⟩ := exec_instr_wroteRun d hv hf hl
  refine ⟨t, _, hexec, hrun.dout, ?_, hrun.atPosition hs⟩
  have hout := (atPosition_iff_stands.mp hs).xorPath_out (askConfig_answersWith s) (s.din.take len) s.drawn
  refine hout.trans (List.map_congr_left fun j hj => ?_)
  have hlen : j < len := (List.mem_range.mp hj).trans_le
    ((xorPath_length_le ..).trans_eq (List.length_take_of_le hl))
  rw [List.getD_eq_getElem?_getD, List.getD_eq_getElem?_getD, List.getElem?_take_of_lt hlen]
  rfl

/-! ### Both sessions of a handle over a step (R40, R43, R139, R171, R173) -/

/-- The bytes a direction has put out in a use. -/
def count (u : HandleUse) (d : Dir) : Nat :=
  match d with
  | .enc => u.enc
  | .dec => u.dec

/-- The use after `k` more bytes put out in direction `d`. -/
def putOut (d : Dir) (k : Nat) (u : HandleUse) : HandleUse :=
  match d with
  | .enc => { u with enc := u.enc + k }
  | .dec => { u with dec := u.dec + k }

@[simp] theorem putOut_key (d : Dir) (k : Nat) (u : HandleUse) : (putOut d k u).key = u.key := by cases d <;> rfl

@[simp] theorem putOut_iv (d : Dir) (k : Nat) (u : HandleUse) : (putOut d k u).iv = u.iv := by cases d <;> rfl

theorem putOut_zero (d : Dir) (u : HandleUse) : putOut d 0 u = u := by cases d <;> rfl

theorem count_putOut_same (d : Dir) (k : Nat) (u : HandleUse) : count (putOut d k u) d = count u d + k := by
  cases d <;> rfl

theorem count_putOut_other {d d' : Dir} (h : d' ≠ d) (k : Nat) (u : HandleUse) :
    count (putOut d k u) d' = count u d' := by
  match d, d' with
  | .enc, .enc => exact absurd rfl h
  | .enc, .dec => rfl
  | .dec, .enc => rfl
  | .dec, .dec => exact absurd rfl h

theorem useAfterCommand_instr (d : Dir) (len : Nat) (s t : State) (g : Option HandleUse) :
    useAfterCommand (d.instr len) s t g = g.map (putOut d (t.dout.length - s.dout.length)) := by
  cases d <;> rfl

theorem heldBy_iff {u : HandleUse} {s : State} :
    u.HeldBy s ↔ s.hv = true ∧ u.iv.length = 16 ∧ selectMode u.key.length = some s.var ∧
      keyBytes s.var s.key = u.key ∧ ∀ d, AtPosition s.var u.key u.iv (count u d) (s.session d) := by
  constructor
  · rintro ⟨valid, ivLength, variant, key, enc, dec⟩
    exact ⟨valid, ivLength, variant, key, fun d => match d with | .enc => enc | .dec => dec⟩
  · rintro ⟨valid, ivLength, variant, key, bank⟩
    exact ⟨valid, ivLength, variant, key, bank .enc, bank .dec⟩

/-- A run moves its own session on by the bytes put out, and leaves the other where it stood. -/
theorem WroteRun.heldBy {d : Dir} {p : List Byte} {s t : State} {u : HandleUse}
    (h : WroteRun d (runOf d p s) s t) (hu : u.HeldBy s) : (putOut d (runOf d p s).out.length u).HeldBy t := by
  obtain ⟨hvalid, hiv, hvariant, hkey, hbank⟩ := heldBy_iff.mp hu
  rw [heldBy_iff, putOut_key, putOut_iv, h.hv, h.var, h.key]
  refine ⟨hvalid, hiv, hvariant, hkey, fun d' => ?_⟩
  by_cases hd : d' = d
  · subst hd
    have := h.atPosition (hkey.symm ▸ hbank d')
    rw [count_putOut_same]
    rwa [h.var, h.key, hkey] at this
  · rw [count_putOut_other hd, h.other d' hd]
    exact hbank d'

theorem construct_heldBy {v : Variant} {key iv : List Byte} (s : State) (hm : selectMode key.length = some v)
    (hiv : iv.length = 16) : ({ key := key, iv := iv, enc := 0, dec := 0 } : HandleUse).HeldBy (construct v key iv s) where
  valid := rfl
  ivLength := hiv
  variant := hm
  key := keyBytes_keyRegister hm
  enc := atPosition_seedSession v key iv
  dec := atPosition_seedSession v key iv

/-- An ENC or a DEC counts what it put out in its own direction. -/
theorem exec_instr_holds {d : Dir} {len : Nat} {s t : State} {g : Option HandleUse} (hl : len ≤ s.din.length)
    (hs : s.Holds g) (h : exec (d.instr len) s = .next t) : t.Holds (useAfterCommand (d.instr len) s t g) := by
  rw [useAfterCommand_instr]
  by_cases hrefused : s.flt = true ∨ s.hv = false
  · obtain ⟨u, hexec, hsame, hdout⟩ := exec_instr_refused (d := d) hrefused hl
    cases hexec.symm.trans h
    have huse : g.map (putOut d (t.dout.length - s.dout.length)) = g := by
      rw [hdout, Nat.sub_self, funext (putOut_zero d), Option.map_id']
    exact huse.symm ▸ SameRegisters.holds hsame hs
  · have hf : s.flt = false := Bool.eq_false_of_not_eq_true fun hf => hrefused (.inl hf)
    have hv : s.hv = true := Bool.eq_true_of_not_eq_false fun hv => hrefused (.inr hv)
    obtain ⟨u, hexec, hrun⟩ := exec_instr_wroteRun d hv hf hl
    cases hexec.symm.trans h
    cases g with
    | none => exact hrun.hv.trans hs
    | some use =>
      have hcount : t.dout.length - s.dout.length = (runOf d (s.din.take len) s).out.length := by
        rw [hrun.dout, List.length_append, Nat.add_sub_cancel_left]
      rw [hcount]
      exact hrun.heldBy hs

/-- The CREATEs that succeed (R170, R197). -/
def Accepted (klen ivlen : Nat) (s : State) : Prop := s.flt = false ∧ (klen = 16 ∨ klen = 32) ∧ ivlen = 16

theorem useAfterCommand_create {klen ivlen : Nat} {s : State} (h : Accepted klen ivlen s) (t : State)
    (g : Option HandleUse) :
    useAfterCommand (.create klen ivlen) s t g =
      some { key := s.din.take klen, iv := (s.din.drop klen).take 16, enc := 0, dec := 0 } :=
  if_pos h

theorem useAfterCommand_create_refused {klen ivlen : Nat} {s : State} (h : ¬ Accepted klen ivlen s) (t : State)
    (g : Option HandleUse) : useAfterCommand (.create klen ivlen) s t g = g :=
  if_neg h

theorem exec_create_refused {klen ivlen : Nat} {s : State} (h : ¬ Accepted klen ivlen s)
    (hl : klen + ivlen ≤ s.din.length) : ∃ t, exec (.create klen ivlen) s = .next t ∧ SameRegisters s t := by
  refine ⟨_, exec_create hl, ?_⟩
  by_cases hf : s.flt = true
  · rw [unlessFaulted_faulted (by exact hf)]
    exact SameRegisters.refl s
  · have hf : s.flt = false := Bool.eq_false_of_not_eq_true hf
    rw [unlessFaulted_clear (by exact hf)]
    rcases createBody_cases klen ivlen (s.din.take (klen + ivlen)) { s with din := s.din.drop (klen + ivlen) } with
      ⟨-, he⟩ | ⟨-, -, -, he⟩ | ⟨v, hm, hiv, -⟩
    · exact he ▸ SameRegisters.refl s
    · exact he ▸ SameRegisters.refl s
    · exact absurd ⟨hf, (selectMode_eq_some_iff.mp hm).imp And.left And.left, hiv⟩ h

/-- A successful CREATE starts the use of its payload's key and IV; any other leaves the use as it was. -/
theorem exec_create_holds {klen ivlen : Nat} {s t : State} {g : Option HandleUse} (hl : klen + ivlen ≤ s.din.length)
    (hs : s.Holds g) (h : exec (.create klen ivlen) s = .next t) :
    t.Holds (useAfterCommand (.create klen ivlen) s t g) := by
  by_cases hacc : Accepted klen ivlen s
  · rw [useAfterCommand_create hacc]
    obtain ⟨hf, hk, rfl⟩ := hacc
    obtain ⟨v, hm⟩ : ∃ v, selectMode klen = some v := by
      rcases hk with rfl | rfl
      · exact ⟨_, selectMode_sixteen⟩
      · exact ⟨_, selectMode_thirtyTwo⟩
    have hkey : (s.din.take klen).length = klen := List.length_take_of_le (by omega)
    have hiv : ((s.din.drop klen).take 16).length = 16 := List.length_take_of_le (by rw [List.length_drop]; omega)
    cases (exec_create_accepted hf hm hl).symm.trans h
    refine SameRegisters.holds ?_ ((holds_some _ _).mpr (construct_heldBy s (hkey.symm ▸ hm) hiv))
    exact SameRegisters.refl (construct v _ _ s)
  · rw [useAfterCommand_create_refused hacc]
    obtain ⟨u, hexec, hsame⟩ := exec_create_refused hacc hl
    cases hexec.symm.trans h
    exact SameRegisters.holds hsame hs

theorem exec_holds {i : Instr} {s t : State} {g : Option HandleUse} (hl : i.decl ≤ s.din.length) (hs : s.Holds g)
    (h : exec i s = .next t) : t.Holds (useAfterCommand i s t g) := by
  cases i with
  | create klen ivlen => exact exec_create_holds hl hs h
  | enc len => exact exec_instr_holds (d := .enc) hl hs h
  | dec len => exact exec_instr_holds (d := .dec) hl hs h
  | incr =>
    cases (exec_incr hl).symm.trans h
    refine SameRegisters.holds ?_ hs
    unfold unlessFaulted
    split <;> exact SameRegisters.refl s
  | status =>
    cases (exec_status s).symm.trans h
    refine SameRegisters.holds ?_ hs
    exact SameRegisters.refl s

theorem useAfterStep_waiting {s : State} (h : fetch s = .waiting) (t : State) (g : Option HandleUse) :
    useAfterStep s t g = g := by
  cases hc : s.cmd with
  | nil => exact useAfterStep_empty hc t g
  | cons w rest =>
    cases hd : decode w with
    | error e => cases (fetch_illegal hc hd).symm.trans h
    | ok i =>
      by_cases hl : i.decl ≤ s.din.length
      · cases (fetch_command hc hd hl).symm.trans h
      · exact useAfterStep_short hc hd (Nat.not_le.mp hl) t g

/-- Settles O51, by what a step can be and, for a command, by `exec_holds`. -/
theorem stepKeepsSessionsInKeyStream : Obligations.StepKeepsSessionsInKeyStream := by
  intro s t g hs h
  rcases step_cases s with ⟨hw, hstep⟩ | ⟨w, rest, e, hc, hd, hstep⟩ | ⟨w, rest, i, hc, hd, hl, hstep⟩
  · cases hstep.symm.trans h
    rwa [useAfterStep_waiting hw]
  · cases hstep.symm.trans h
    rw [useAfterStep_illegal hc hd]
    refine SameRegisters.holds ?_ hs
    exact SameRegisters.refl s
  · have hpopped : ({ s with cmd := rest } : State).Holds g := by
      refine SameRegisters.holds ?_ hs
      exact SameRegisters.refl s
    rw [useAfterStep_command hc hd hl]
    exact exec_holds (s := { s with cmd := rest }) hl hpopped (hstep.symm.trans h)

/-! ### Both sessions of a handle over runs (R142, R220, R235) -/

/-- Of the host's actions only reset writes registers (R236). -/
theorem hostAct_sameRegisters {a : HostAction} {s t : State} {o : List Observation} (ha : a ≠ .assertReset)
    (h : hostAct a s = some (o, t)) : SameRegisters s t := by
  cases a with
  | pushCmd w => cases h; exact SameRegisters.refl s
  | pushDin b => cases h; exact SameRegisters.refl s
  | popDout =>
    unfold hostAct at h
    cases hd : s.dout <;> rw [hd] at h <;> cases h
    exact SameRegisters.refl s
  | popRsp =>
    unfold hostAct at h
    cases hr : s.rsp <;> rw [hr] at h <;> cases h
    exact SameRegisters.refl s
  | assertReset => exact absurd rfl ha

theorem useAfterEvent_host {a : HostAction} (ha : a ≠ .assertReset) (s t : State) (g : Option HandleUse) :
    useAfterEvent (.host a) s t g = g := by
  cases a with
  | assertReset => exact absurd rfl ha
  | _ => rfl

theorem runEvent_holds {e : Event} {s t : State} {o : List Observation} {g : Option HandleUse} (hs : s.Holds g)
    (h : runEvent e s = some (o, t)) : t.Holds (useAfterEvent e s t g) := by
  cases e with
  | engine => exact stepKeepsSessionsInKeyStream s t g hs (runEvent_engine h)
  | host a =>
    by_cases ha : a = .assertReset
    · subst ha
      cases h
      exact (holds_none _).mpr rfl
    · rw [useAfterEvent_host ha]
      exact SameRegisters.holds (hostAct_sameRegisters ha h) hs

theorem runEvents_holds {es : List Event} {s t : State} {obs : List Observation} {g : Option HandleUse}
    (hs : s.Holds g) (h : runEvents es s = some (obs, t)) : t.Holds (useAfterEvents es s g) := by
  induction es generalizing s obs g with
  | nil => cases h; exact hs
  | cons e es ih =>
    obtain ⟨o, u, o', he, hes⟩ := runEvents_cons h
    simp only [useAfterEvents, he]
    exact ih (runEvent_holds hs he) hes

/-- Settles O52, event by event; at reset there is no use. -/
theorem reachableSessionsInKeyStream : Obligations.ReachableSessionsInKeyStream :=
  ⟨fun _ _ _ _ _ => runEvent_holds, fun _ _ _ => runEvents_holds ((holds_none _).mpr rfl)⟩

/-! ### The blocks of a run that does not fail (R140, R141) -/

/-- Blocks are made lazily: a run that makes any ends within the last of them. -/
theorem xorPath_blocks {ask : Nat → Block → Option Block} {p : List Byte} {n : Nat} {S : Session}
    (hok : (xorPath ask p n S).failed = false) :
    ∃ m, (xorPath ask p n S).drawn = n + m ∧
      (xorPath ask p n S).session.ctr = S.ctr + BitVec.ofNat 128 m ∧
      resCount S + 16 * m = p.length + resCount (xorPath ask p n S).session ∧
      (m = 0 ∨ resCount (xorPath ask p n S).session < 16) := by
  induction p generalizing n S with
  | nil => exact ⟨0, rfl, (BitVec.add_zero _).symm, (Nat.zero_add _).symm, .inl rfl⟩
  | cons b p ih =>
    cases hr : refill ask n S with
    | none => rw [xorPath_cons_fail hr] at hok; cases hok
    | some a =>
      obtain ⟨S', n'⟩ := a
      have huse : resCount S' = resCount (useByte S') + 1 := by
        have hoff := refill_off_lt hr
        have hnext := useByte_off hoff
        unfold resCount
        omega
      rw [xorPath_cons_some hr, emit_failed] at hok
      rw [xorPath_cons_some hr, emit_drawn, emit_session, List.length_cons]
      obtain ⟨m, hdrawn, hctr, hres, hlast⟩ := ih hok
      rw [useByte_ctr] at hctr
      rcases refill_cases ask n S with ⟨-, hr'⟩ | ⟨-, -, hr'⟩ | ⟨k, ho, -, hr'⟩ <;> cases hr'.symm.trans hr
      · exact ⟨m, hdrawn, hctr, by omega, hlast⟩
      · have hfull : resCount { ctr := inc S.ctr, ks := k, off := 0 } = 16 := rfl
        have hempty : resCount S = 0 := by rw [resCount, ho]; rfl
        refine ⟨m + 1, by omega, ?_, by omega, by omega⟩
        rw [hctr, inc, BitVec.add_assoc, Nat.add_comm m, BitVec.ofNat_add]
        rfl

/-- The ceiling of R141 is the one number of 16-byte blocks that reaches `x` bytes and not without the last. -/
theorem ceil_div_sixteen {x m : Nat} (hm : m ≠ 0) (hlow : 16 * m < x + 16) (hhigh : x ≤ 16 * m) :
    ⌈(x : ℚ) / 16⌉₊ = m := by
  rw [Nat.ceil_eq_iff hm, lt_div_iff₀ (by norm_num), div_le_iff₀ (by norm_num)]
  constructor
  · have : (m - 1) * 16 < x := by omega
    exact_mod_cast this
  · have : x ≤ m * 16 := by omega
    exact_mod_cast this

/-- Settles O31: the number of blocks by `xorPath_blocks`, which fixes it as the ceiling. -/
theorem blocksPerCommand : Obligations.BlocksPerCommand := by
  intro d len s hv hf hl r nb
  obtain ⟨t, hexec, hrun⟩ := exec_instr_wroteRun d hv hf hl
  refine ⟨t, hexec, fun hflt => ?_⟩
  have hok : (runOf d (s.din.take len) s).failed = false := by rwa [hrun.flt, hf, Bool.false_or] at hflt
  obtain ⟨m, hdrawn, hctr, hres, hlast⟩ := xorPath_blocks hok
  rw [← hrun.bank, List.length_take_of_le hl] at hres
  rw [← hrun.bank] at hctr hlast
  have hnb : nb = m := by
    by_cases hle : len ≤ r
    · rw [show nb = 0 from if_pos hle]
      omega
    · rw [show nb = ⌈((len - r : Nat) : ℚ) / 16⌉₊ from if_neg hle]
      exact ceil_div_sixteen (by omega) (by omega) (by omega)
  rw [hrun.drawn, hdrawn, hnb, hctr]
  refine ⟨rfl, rfl, ?_⟩
  split <;> omega

/-! ### The wrap of the counter (R143) -/

theorem xorPath_ok {ask : Nat → Block → Option Block} (hask : ∀ n block, ask n block ≠ none) (p : List Byte) (n : Nat)
    (S : Session) : (xorPath ask p n S).failed = false := by
  induction p generalizing n S with
  | nil => rfl
  | cons b p ih =>
    rcases refill_cases ask n S with ⟨-, hr⟩ | ⟨-, ha, -⟩ | ⟨k, -, -, hr⟩
    · rw [xorPath_cons_some hr, emit_failed, ih]
    · exact absurd ha (hask _ _)
    · rw [xorPath_cons_some hr, emit_failed, ih]

theorem WroteRun.refl (d : Dir) (s : State) :
    WroteRun d { out := [], session := s.session d, drawn := s.drawn, failed := false } s s where
  hv := rfl
  var := rfl
  key := rfl
  stream := rfl
  flt := (Bool.or_false _).symm
  drawn := rfl
  dout := (List.append_nil _).symm
  bank := rfl
  other _ _ := rfl

/-- Two runs written back one after the other are one, if the first did not fail (R152). -/
theorem WroteRun.trans {d : Dir} {p q : List Byte} {ask : Nat → Block → Option Block} {s u t : State}
    (h : WroteRun d (xorPath ask p s.drawn (s.session d)) s u)
    (hok : (xorPath ask p s.drawn (s.session d)).failed = false)
    (h' : WroteRun d (xorPath ask q u.drawn (u.session d)) u t) :
    WroteRun d (xorPath ask (p ++ q) s.drawn (s.session d)) s t := by
  have hflt : u.flt = s.flt := by rw [h.flt, hok, Bool.or_false]
  rw [xorPath_append, joinRuns, hok, if_neg Bool.false_ne_true, ← h.drawn, ← h.bank]
  exact
    { hv := h'.hv.trans h.hv
      var := h'.var.trans h.var
      key := h'.key.trans h.key
      stream := h'.stream.trans h.stream
      flt := by rw [h'.flt, hflt]
      drawn := h'.drawn
      dout := by rw [h'.dout, h.dout, List.append_assoc]
      bank := h'.bank
      other := fun d' hd => (h'.other d' hd).trans (h.other d' hd) }

section
variable {P : Primitive} {d : Dir} {s : State}

theorem askPrimitive_ne_none (hok : ∀ n, P.fails s.stream n = false) (n : Nat) (block : Block) :
    askPrimitive P s n block ≠ none := by
  rw [askPrimitive, hok]
  exact Option.some_ne_none _

theorem process_rsp_ok {p : List Byte} (hv : s.hv = true)
    (hok : (xorPath (askPrimitive P s) p s.drawn (s.session d)).failed = false) :
    (process P d p s).rsp = s.rsp ++ [0x000000#24 ++ stat s] := by
  rw [process_handle P d p hv, hok, if_neg Bool.false_ne_true, complete_rsp, respWord_ok, commitRun_rsp,
    stat_congr (commitRun_flt ..) (commitRun_var ..) (commitRun_hv ..)]

/-- Commands of one direction on a primitive that does not fail write back one run on all their payloads, and all
answer OK. -/
theorem foldl_process (hv : s.hv = true) (hok : ∀ n, P.fails s.stream n = false) (ps : List (List Byte)) :
    WroteRun d (xorPath (askPrimitive P s) ps.flatten s.drawn (s.session d)) s
        (ps.foldl (fun u p => process P d p u) s) ∧
      (ps.foldl (fun u p => process P d p u) s).rsp =
        s.rsp ++ List.replicate ps.length (0x000000#24 ++ stat s) := by
  induction ps generalizing s with
  | nil => exact ⟨WroteRun.refl d s, (List.append_nil _).symm⟩
  | cons p ps ih =>
    have hrun := process_wroteRun P d p hv
    have hrunOk := xorPath_ok (askPrimitive_ne_none hok) p s.drawn (s.session d)
    have hflt : (process P d p s).flt = s.flt := by rw [hrun.flt, hrunOk, Bool.or_false]
    obtain ⟨hrest, hrsp⟩ := ih (hrun.hv.trans hv) (hrun.stream.symm ▸ hok)
    rw [askPrimitive_congr P hrun.stream hrun.var hrun.key] at hrest
    refine ⟨hrun.trans hrunOk hrest, ?_⟩
    rw [List.foldl_cons, hrsp, process_rsp_ok hv hrunOk, stat_congr hflt hrun.var hrun.hv, List.append_assoc]
    rfl

/-- A command that does not fail puts out the key stream from its session's position on, over its whole payload. -/
theorem process_dout {E : Block → Block} {c : BitVec 128} {T : Nat} (hv : s.hv = true)
    (hok : ∀ n, P.fails s.stream n = false) (hE : AnswersWith E (askPrimitive P s)) (h : Stands E c T (s.session d))
    (q : List Byte) : (process P d q s).dout = s.dout ++ streamMask E c T q q.length := by
  have hlen := xorPath_length (askPrimitive P s) q s.drawn (s.session d)
  rw [xorPath_ok (askPrimitive_ne_none hok), if_neg Bool.false_ne_true] at hlen
  rw [(process_wroteRun P d q hv).dout, h.xorPath_out hE, hlen]

end

section
variable {E : Block → Block} {c : BitVec 128} {t : Nat} {S : Session}

/-- A session between commands stands in the key stream of its cipher, its residual's block the first of it. -/
theorem exists_stands (hpos : 1 ≤ S.off.val) (hks : S.off = 16 ∨ S.ks = E (bytes128 (S.ctr - 1))) :
    ∃ c t, Stands E c t S := by
  by_cases ho : S.off = 16
  · exact ⟨S.ctr, 0, (BitVec.add_zero _).symm, congrArg Fin.val ho, fun h => absurd rfl h⟩
  · have hlt : S.off.val < 16 := Nat.lt_of_le_of_ne (Nat.le_of_lt_succ S.off.isLt) fun he => ho (Fin.ext he)
    have hone : (S.off.val + 15) / 16 = 1 := by omega
    have hzero : S.off.val / 16 = 0 := by omega
    refine ⟨S.ctr - 1, S.off.val, ?_, ?_, fun _ => ?_⟩
    · rw [hone]
      exact (BitVec.sub_add_cancel ..).symm
    · rw [if_neg (by omega)]
      omega
    · rw [hks.resolve_left ho, hzero, streamBlock, BitVec.add_zero]

theorem ofNat_add_wrap (n : Nat) : BitVec.ofNat 128 (n + 2 ^ 128) = BitVec.ofNat 128 n := by
  rw [BitVec.ofNat_add, show BitVec.ofNat 128 (2 ^ 128) = 0 by decide]
  exact BitVec.add_zero _

/-- 2^128 blocks further on in a key stream is the same position. -/
theorem Stands.wrap (h : Stands E c (t + 16 * 2 ^ 128) S) : Stands E c t S := by
  obtain ⟨hctr, hoff, hks⟩ := h
  have hmade : (t + 16 * 2 ^ 128 + 15) / 16 = (t + 15) / 16 + 2 ^ 128 := by omega
  have hread : (t + 16 * 2 ^ 128) / 16 = t / 16 + 2 ^ 128 := by omega
  have hmod : (t + 16 * 2 ^ 128) % 16 = t % 16 := by omega
  rw [hmade, ofNat_add_wrap] at hctr
  rw [hread, hmod, streamBlock, ofNat_add_wrap] at hks
  rw [hmod] at hoff
  exact ⟨hctr, hoff, hks⟩

end

/-- Settles O37: the commands are one run of 2^128 blocks, after which the session stands at its first position. -/
theorem keyStreamRepeatsAfterWrap : Obligations.KeyStreamRepeatsAfterWrap := by
  refine ⟨fun d len s hf hl => exec_instr_clear d hf hl, ?_⟩
  intro P d payloads q s hv hok hbytes hpos hks t
  obtain ⟨hrun, hrsp⟩ := foldl_process (d := d) hv hok payloads
  have hrunOk := xorPath_ok (askPrimitive_ne_none hok) payloads.flatten s.drawn (s.session d)
  have hlen := xorPath_length (askPrimitive P s) payloads.flatten s.drawn (s.session d)
  rw [hrunOk, if_neg Bool.false_ne_true, hbytes] at hlen
  obtain ⟨E, hE, hks⟩ : ∃ E, AnswersWith E (askPrimitive P s) ∧
      ((s.session d).off = 16 ∨ (s.session d).ks = E (bytes128 ((s.session d).ctr - 1))) :=
    ⟨_, askPrimitive_answersWith P s, hks⟩
  obtain ⟨c, T, hstart⟩ := exists_stands hpos hks
  have hend : Stands E c T (t.session d) := by
    have := hstart.xorPath_session hE payloads.flatten s.drawn
    rw [hlen, ← hrun.bank] at this
    exact this.wrap
  have hoff : (t.session d).off = (s.session d).off := Fin.ext (hend.off.trans hstart.off.symm)
  have hdrawn : t.drawn = s.drawn + 2 ^ 128 := by
    obtain ⟨m, hm, -, hres, -⟩ := xorPath_blocks hrunOk
    have hsame : resCount (t.session d) = resCount (s.session d) := by rw [resCount, hoff, resCount]
    rw [← hrun.bank, hbytes, hsame] at hres
    rw [hrun.drawn, hm]
    omega
  have hEt : AnswersWith E (askPrimitive P t) := askPrimitive_congr P hrun.stream hrun.var hrun.key ▸ hE
  exact ⟨hdrawn, hend.ctr.trans hstart.ctr.symm, hoff, by rw [hrun.flt, hrunOk, Bool.or_false], hrsp,
    _, _, hlen, hrun.dout, length_streamMask .., process_dout hv hok hE hstart q,
    process_dout (hrun.hv.trans hv) (hrun.stream.symm ▸ hok) hEt hend q⟩

end Sys2Proof.Proofs.KeyStream
end

section
/-!
PROOFS of the statements of spec/43_session.md: the whole next state of ENC and DEC, whether they are refused or run
(R148, R149); a run of the XOR path as a count of blocks and as a mask of its payload, by one induction over the path
(R140, R141, R145); and what follows for split payloads, the other bank, decryption and payloads of zeros (R150 to
R158).
-/

namespace Sys2Proof.Proofs.StreamingSession

open Sys2Proof Sys2Proof.Machine Sys2Proof.Laws Sys2Proof.Proofs.Registers Sys2Proof.Proofs.Encoding
  Sys2Proof.Proofs.CounterBlock Sys2Proof.Proofs.KeyStream

/-! ### The next state of ENC and DEC (R145, R194, R197) -/

theorem decl_instr (d : Dir) (len : Nat) : (d.instr len).decl = len := by cases d <;> rfl

/-- An ENC or DEC that answers at all had its payload in DIN (R78, R91). -/
theorem length_le_of_exec_instr {d : Dir} {len : Nat} {s t : State} (h : exec (d.instr len) s = .next t) :
    len ≤ s.din.length := by
  by_contra hl
  have hshort : exec (d.instr len) s = .fault .payloadIncomplete :=
    match d with
    | .enc => popPayload_short (Nat.not_le.mp hl) _
    | .dec => popPayload_short (Nat.not_le.mp hl) _
  cases hshort.symm.trans h

/-- The error a faulted engine, or one without a handle, answers to ENC and DEC: FAULTED first. -/
def refusal (s : State) : Code := if s.flt then .faulted else .noHandle

theorem exec_instr_raises (d : Dir) {len : Nat} {s : State} (h : s.flt = true ∨ s.hv = false)
    (hl : len ≤ s.din.length) :
    exec (d.instr len) s = .next (raise (refusal s) 0 0 { s with din := s.din.drop len }) := by
  rw [exec_instr d hl, refusal]
  by_cases hf : s.flt = true
  · rw [unlessFaulted_faulted (by exact hf), if_pos hf]
  · rw [unlessFaulted_clear (by exact Bool.eq_false_of_not_eq_true hf),
      process_noHandle _ d _ (by exact h.resolve_left hf), if_neg hf]

/-- The state after an ENC or DEC of `len` bytes whose run of the XOR path was `r`. -/
def served (d : Dir) (len : Nat) (r : XorRun) (s : State) : State :=
  { s.setSession d r.session with
    flt := r.failed, drawn := r.drawn, din := s.din.drop len, dout := s.dout ++ r.out,
    rsp := s.rsp ++ [if r.failed then failureWord r.out.length else 0x000000#24 ++ stat s] }

theorem exec_instr_served (d : Dir) {len : Nat} {s : State} (hv : s.hv = true) (hf : s.flt = false)
    (hl : len ≤ s.din.length) :
    exec (d.instr len) s = .next (served d len (runOf d (s.din.take len) s) s) := by
  rw [exec_instr_run d hv hf hl, served]
  generalize runOf d (s.din.take len) s = r
  cases hr : r.failed with
  | true => cases d <;> rfl
  | false =>
    rw [if_neg Bool.false_ne_true, if_neg Bool.false_ne_true, ← respWord_ok, ← hf]
    cases d <;> rfl

/-- ENC and DEC are refused, or run with a handle and no fault (R100, R148, R149). -/
theorem refused_or_serves (s : State) : (s.flt = true ∨ s.hv = false) ∨ (s.hv = true ∧ s.flt = false) := by
  cases s.flt <;> cases s.hv <;> simp

/-- A command whose run does not fail leaves FLT as it was and answers OK. -/
theorem exec_instr_ok (d : Dir) {len : Nat} {s : State} {r : XorRun} (hv : s.hv = true) (hf : s.flt = false)
    (hl : len ≤ s.din.length) (hr : runOf d (s.din.take len) s = r) (hok : r.failed = false) :
    exec (d.instr len) s = .next { s.setSession d r.session with
      drawn := r.drawn, din := s.din.drop len, dout := s.dout ++ r.out, rsp := s.rsp ++ [0x000000#24 ++ stat s] } := by
  rw [exec_instr_served d hv hf hl, hr, served, hok, ← hf, if_neg (by simp [hf])]
  cases d <;> rfl

/-- ENC and DEC on a DIN that holds their payload and nothing more. -/
theorem exec_payload_served (d : Dir) {s : State} (hv : s.hv = true) (hf : s.flt = false) (p : List Byte) :
    exec (d.instr p.length) { s with din := p } =
      .next (served d p.length (runOf d p s) { s with din := p }) := by
  have h := exec_instr_served d (s := { s with din := p }) hv hf (le_refl p.length)
  rwa [List.take_length] at h

theorem exec_payload_wroteRun (d : Dir) {s : State} (hv : s.hv = true) (hf : s.flt = false) (p : List Byte) :
    ∃ t, exec (d.instr p.length) { s with din := p } = .next t ∧ WroteRun d (runOf d p s) s t := by
  obtain ⟨t, ht, h⟩ := exec_instr_wroteRun d (s := { s with din := p }) hv hf (le_refl p.length)
  rw [List.take_length] at h
  exact ⟨t, ht, h.hv, h.var, h.key, h.stream, h.flt, h.drawn, h.dout, h.bank, h.other⟩

/-- Settles O25: an empty payload is an empty run, or is refused. -/
theorem zeroLengthIsNoOp : Obligations.ZeroLengthIsNoOp := by
  intro d s hf
  by_cases hv : s.hv = true
  · rw [exec_instr_ok d hv hf (Nat.zero_le _) rfl rfl, ← respWord_ok, if_pos hv]
    simp [runOf, respWord, codeBits]
  · have hv : s.hv = false := Bool.eq_false_of_not_eq_true hv
    rw [exec_instr_raises d (.inr hv) (Nat.zero_le _), refusal, if_neg (by simp [hf]), if_neg (by simp [hv])]
    rfl

/-- Settles O26: the run is `xorPath_residual`'s, which only moves OFF. -/
theorem residualServesShortCommand : Obligations.ResidualServesShortCommand := by
  intro d len s hv hf hl hres
  have hlen : (s.din.take len).length = len := List.length_take_of_le hl
  have hfits : (s.session d).off.val + len ≤ 16 := by
    have := (s.session d).off.isLt
    unfold resCount at hres
    omega
  have hoff : (advance (s.session d) len).off.val = (s.session d).off.val + len := Nat.mod_eq_of_lt (by omega)
  refine ⟨advance (s.session d) len, rfl, rfl, hoff, ?_⟩
  rw [exec_instr_ok d hv hf hl (xorPath_residual _ (by rwa [hlen])) rfl, hlen]
  cases d <;> rfl

/-! ### The frame of ENC and DEC (R136, R148, R149) -/

/-- Settles O30: the channels by `exec_answers`, the registers by the record of a refused or a served command. -/
theorem processFrame : Obligations.ProcessFrame := by
  intro d len s t h
  have hl := length_le_of_exec_instr h
  obtain ⟨t', hexec, out, r, hcmd, hdin, hdout, hrsp, -⟩ :=
    exec_answers (i := d.instr len) (by rwa [decl_instr])
  cases hexec.symm.trans h
  rw [decl_instr] at hdin
  have hprefix : s.dout <+: t.dout := ⟨out, hdout.symm⟩
  rcases refused_or_serves s with hrefused | ⟨hv, hf⟩
  · cases (exec_instr_raises d hrefused hl).symm.trans h
    exact ⟨rfl, rfl, rfl, hcmd, rfl, fun _ _ => rfl, hdin, hprefix, ⟨r, hrsp⟩, fun _ => ⟨rfl, rfl, rfl, rfl⟩⟩
  · obtain ⟨u, hu, hrun⟩ := exec_instr_wroteRun d hv hf hl
    cases hu.symm.trans h
    exact ⟨hrun.hv, hrun.var, hrun.key, hcmd, hrun.stream, hrun.other, hdin, hprefix, ⟨r, hrsp⟩,
      fun hrefused => absurd hrefused (by simp [hv, hf])⟩

theorem exec_instr_cmd_din {d : Dir} {len : Nat} {s t : State} (h : exec (d.instr len) s = .next t) :
    t.cmd = s.cmd ∧ t.din = s.din.drop len := by
  obtain ⟨-, -, -, hcmd, -, -, hdin, -⟩ := processFrame d len s t h
  exact ⟨hcmd, hdin⟩

/-! ### The other bank (R150) -/

section
variable {d d' : Dir} (h : d' ≠ d)
include h

theorem runOf_setSession_other (p : List Byte) (s : State) (X : Session) :
    runOf d p (s.setSession d' X) = runOf d p s := by
  rw [runOf, session_setSession_other h.symm, setSession_drawn,
    askPrimitive_congr _ (setSession_stream ..) (setSession_var ..) (setSession_key ..)]

theorem served_setSession_other (len : Nat) (r : XorRun) (s : State) (X : Session) :
    served d len r (s.setSession d' X) = (served d len r s).setSession d' X := by
  match d, d' with
  | .enc, .enc => exact absurd rfl h
  | .enc, .dec => rfl
  | .dec, .enc => rfl
  | .dec, .dec => exact absurd rfl h

/-- The other bank's contents pass through a command. -/
theorem exec_instr_setSession_other {len : Nat} {s t : State} (ht : exec (d.instr len) s = .next t) (X : Session) :
    exec (d.instr len) (s.setSession d' X) = .next (t.setSession d' X) := by
  have hl := length_le_of_exec_instr ht
  have hl' : len ≤ (s.setSession d' X).din.length := by rwa [setSession_din]
  rcases refused_or_serves s with hrefused | ⟨hv, hf⟩
  · cases (exec_instr_raises d hrefused hl).symm.trans ht
    rw [exec_instr_raises d (by simpa using hrefused) hl']
    cases d' <;> rfl
  · cases (exec_instr_served d hv hf hl).symm.trans ht
    rw [exec_instr_served d (by simpa using hv) (by simpa using hf) hl', setSession_din, runOf_setSession_other h,
      served_setSession_other h]

end

/-- Settles O29: a bank that passes through any command unread is unchanged by it. -/
theorem otherBankUntouched : Obligations.OtherBankUntouched := by
  intro d d' len s X hd hl
  obtain ⟨t, ht⟩ := exec_next (d.instr len) (by rwa [decl_instr])
  have hsame := exec_instr_setSession_other hd ht (s.session d')
  rw [setSession_session, ht] at hsame
  refine ⟨t, ht, ?_, exec_instr_setSession_other hd ht X⟩
  calc t.session d' = (t.setSession d' (s.session d')).session d' := by rw [← Host.Outcome.next.inj hsame]
    _ = s.session d' := session_setSession_same ..

/-! ### One induction over the XOR path (R140, R145) -/

/-- A run that does not fail puts out a byte for every byte of its payload (R147). -/
theorem xorPath_length_of_ok {ask : Nat → Block → Option Block} {p : List Byte} {n : Nat} {S : Session}
    (hok : (xorPath ask p n S).failed = false) : (xorPath ask p n S).out.length = p.length := by
  have hlen := xorPath_length ask p n S
  rwa [hok, if_neg Bool.false_ne_true] at hlen

section
variable {s : State} {S : Session} {n len nb m : Nat} {r : XorRun}

/-- What holds of every run of the engine's XOR path: it ends with the payload or at a failing invocation, and
otherwise uses a byte of a residual or fills an empty one. -/
theorem xorPath_induction {Q : List Byte → Nat → Session → XorRun → Prop}
    (nil : ∀ n S, Q [] n S { out := [], session := S, drawn := n, failed := false })
    (failure : ∀ b p n S, S.off = 16 → Config.primFails s.stream n = true →
      Q (b :: p) n S { out := [], session := S, drawn := n + 1, failed := true })
    (residual : ∀ b p n S r, S.off.val < 16 → Q p n (useByte S) r → Q (b :: p) n S (emit (b ^^^ keyByte S) r))
    (block : ∀ b p n S r, S.off = 16 → Config.primFails s.stream n = false →
      Q (b :: p) (n + 1) (refilled S (cipherBlock s.var s.key S.ctr)) r → Q (b :: p) n S r)
    (p : List Byte) (n : Nat) (S : Session) : Q p n S (xorPath (askPrimitive Config.primitive s) p n S) := by
  induction p generalizing n S with
  | nil => exact nil n S
  | cons b p ih =>
    have hres : ∀ n (S : Session), S.off.val < 16 →
        Q (b :: p) n S (xorPath (askPrimitive Config.primitive s) (b :: p) n S) := by
      intro n S hlt
      have hne : S.off ≠ 16 := fun he => absurd (congrArg Fin.val he) (Nat.ne_of_lt hlt)
      rw [xorPath_cons_some (refill_residual hne)]
      exact residual b p n S _ hlt (ih n (useByte S))
    by_cases ho : S.off = 16
    · cases hfail : Config.primFails s.stream n with
      | true =>
        rw [xorPath_first_fails (List.cons_ne_nil b p) ho (askPrimitive_fail hfail _)]
        exact failure b p n S ho hfail
      | false =>
        rw [xorPath_refilled (List.cons_ne_nil b p) ho (askPrimitive_ok hfail _)]
        exact block b p n S _ ho hfail (hres _ _ (Nat.zero_lt_succ 15))
    · exact hres n S (Nat.lt_of_le_of_ne (Nat.le_of_lt_succ S.off.isLt) fun he => ho (Fin.ext he))

/-! ### A run as a count of blocks (R135, R138, R141, R196) -/

/-- The run `r` of `len` bytes from the session `S` at invocation `n` needed `nb` blocks and made `m` of them. -/
structure MakesBlocks (s : State) (S : Session) (n len nb m : Nat) (r : XorRun) : Prop where
  failed : r.failed = decide (m ≠ nb)
  drawn : r.drawn = if m = nb then n + m else n + m + 1
  ctr : r.session.ctr = S.ctr + BitVec.ofNat 128 m
  ks : r.session.ks = if m = 0 then S.ks else cipherBlock s.var s.key (S.ctr + BitVec.ofNat 128 (m - 1))
  length : r.out.length = if m = nb then len else resCount S + 16 * m
  off : S.off.val + r.out.length = r.session.off.val + 16 * m

theorem inc_add (c : BitVec 128) (n : Nat) : inc c + BitVec.ofNat 128 n = c + BitVec.ofNat 128 (n + 1) := by
  rw [inc, BitVec.add_assoc, Nat.add_comm n, BitVec.ofNat_add]
  rfl

theorem resCount_empty (ho : S.off = 16) : resCount S = 0 := by
  rw [resCount, ho]
  rfl

theorem resCount_useByte (h : S.off.val < 16) : resCount S = resCount (useByte S) + 1 := by
  have := useByte_off h
  unfold resCount
  omega

@[simp] theorem resCount_refilled (S : Session) (k : Block) : resCount (refilled S k) = 16 := rfl

/-- OFF after the run, from the last block made (R146). -/
theorem MakesBlocks.off_eq (h : MakesBlocks s S n len nb m r) :
    r.session.off.val =
      if m = 0 then S.off.val + r.out.length else r.out.length - resCount S - 16 * (m - 1) := by
  have hmoved := h.off
  have hbound := S.off.isLt
  unfold resCount
  split <;> omega

theorem MakesBlocks.nil : MakesBlocks s S n 0 0 0 { out := [], session := S, drawn := n, failed := false } where
  failed := rfl
  drawn := rfl
  ctr := (BitVec.add_zero _).symm
  ks := rfl
  length := rfl
  off := rfl

theorem MakesBlocks.failure (ho : S.off = 16) :
    MakesBlocks s S n len (nb + 1) 0 { out := [], session := S, drawn := n + 1, failed := true } where
  failed := rfl
  drawn := rfl
  ctr := (BitVec.add_zero _).symm
  ks := rfl
  length := by rw [if_neg (Nat.succ_ne_zero nb).symm, resCount_empty ho]; rfl
  off := rfl

theorem MakesBlocks.emit (hoff : S.off.val < 16) (h : MakesBlocks s (useByte S) n len nb m r) (b : Byte) :
    MakesBlocks s S n (len + 1) nb m (emit b r) where
  failed := h.failed
  drawn := h.drawn
  ctr := h.ctr
  ks := h.ks
  length := by
    have hlen := h.length
    have hres := resCount_useByte hoff
    rw [emit_out, List.length_cons]
    split at hlen <;> split <;> omega
  off := by
    have hmoved := h.off
    have huse := useByte_off hoff
    rw [emit_out, emit_session, List.length_cons]
    omega

theorem MakesBlocks.refill (ho : S.off = 16)
    (h : MakesBlocks s (refilled S (cipherBlock s.var s.key S.ctr)) (n + 1) len nb m r) :
    MakesBlocks s S n len (nb + 1) (m + 1) r where
  failed := by rw [h.failed]; congr 1; simp
  drawn := by
    have := h.drawn
    split at this <;> split <;> omega
  ctr := h.ctr.trans (inc_add S.ctr m)
  ks := by
    rw [h.ks, if_neg (Nat.succ_ne_zero m)]
    by_cases hm : m = 0
    · rw [if_pos hm, hm, refilled, BitVec.add_zero]
    · obtain ⟨k, rfl⟩ := Nat.exists_eq_succ_of_ne_zero hm
      rw [if_neg hm, refilled, Nat.succ_sub_one, Nat.succ_sub_one, inc_add]
  length := by
    have hlen := h.length
    have hempty := resCount_empty ho
    rw [resCount_refilled] at hlen
    split at hlen <;> split <;> omega
  off := by
    have hmoved := h.off
    have hfull : (refilled S (cipherBlock s.var s.key S.ctr)).off.val = 0 := rfl
    have hempty : S.off.val = 16 := congrArg Fin.val ho
    omega

theorem blocksNeeded_nil (r : Nat) : blocksNeeded r 0 = 0 := if_pos (Nat.zero_le r)

theorem blocksNeeded_residual (r len : Nat) : blocksNeeded (r + 1) (len + 1) = blocksNeeded r len := by
  unfold blocksNeeded
  split <;> split <;> omega

theorem blocksNeeded_block (len : Nat) : blocksNeeded 0 (len + 1) = blocksNeeded 16 (len + 1) + 1 := by
  unfold blocksNeeded
  split <;> split <;> omega

theorem blocksMade_fail {stream : Nat} (h : Config.primFails stream n = true) (nb : Nat) :
    blocksMade stream nb n = 0 := by
  cases nb with
  | zero => rfl
  | succ nb => rw [blocksMade, if_pos h]

theorem blocksMade_ok {stream : Nat} (h : Config.primFails stream n = false) (nb : Nat) :
    blocksMade stream (nb + 1) n = blocksMade stream nb (n + 1) + 1 := by
  rw [blocksMade, if_neg (by simp [h])]

/-- A run makes as many of the blocks it needs as invocations succeed in a row. -/
theorem xorPath_makesBlocks (s : State) (p : List Byte) (n : Nat) (S : Session) :
    MakesBlocks s S n p.length (blocksNeeded (resCount S) p.length)
      (blocksMade s.stream (blocksNeeded (resCount S) p.length) n)
      (xorPath (askPrimitive Config.primitive s) p n S) := by
  refine xorPath_induction (Q := fun p n S r => MakesBlocks s S n p.length (blocksNeeded (resCount S) p.length)
    (blocksMade s.stream (blocksNeeded (resCount S) p.length) n) r) ?nil ?failure ?residual ?block p n S
  case nil => exact fun n S => by rw [List.length_nil, blocksNeeded_nil]; exact .nil
  case failure =>
    intro b p n S ho hfail
    rw [resCount_empty ho, List.length_cons, blocksNeeded_block, blocksMade_fail hfail]
    exact .failure ho
  case residual =>
    intro b p n S r hoff ih
    rw [resCount_useByte hoff, List.length_cons, blocksNeeded_residual]
    exact ih.emit hoff _
  case block =>
    intro b p n S r ho hok ih
    rw [resCount_empty ho, List.length_cons, blocksNeeded_block, blocksMade_ok hok]
    exact ih.refill ho

/-! ### A run as a mask of its payload (R139, R146) -/

variable {v : Variant} {key : KeyReg}

theorem length_maskedBytes (v : Variant) (key : KeyReg) (S : Session) (p : List Byte) (u : Nat) :
    (maskedBytes v key S p u).length = u := by
  rw [maskedBytes, List.length_map, List.length_range]

theorem keyByteAhead_zero (h : S.off.val < 16) : keyByteAhead v key S 0 = keyByte S := by
  rw [keyByteAhead, if_pos (by unfold resCount; omega), Nat.add_zero, keyByte]

theorem keyByteAhead_succ (h : S.off.val < 16) (j : Nat) :
    keyByteAhead v key S (j + 1) = keyByteAhead v key (useByte S) j := by
  unfold keyByteAhead
  rw [resCount_useByte h, useByte_off h, useByte_ctr, useByte_ks, Nat.add_sub_add_right, Nat.add_assoc,
    Nat.add_comm 1 j]
  simp only [Nat.add_lt_add_iff_right]

theorem keyByteAhead_refilled (ho : S.off = 16) (j : Nat) :
    keyByteAhead v key (refilled S (cipherBlock v key S.ctr)) j = keyByteAhead v key S j := by
  rw [keyByteAhead, keyByteAhead, resCount_empty ho, resCount_refilled, if_neg (Nat.not_lt_zero j), Nat.sub_zero]
  by_cases hj : j < 16
  · have hblock : j / 16 = 0 := by omega
    have hbyte : j % 16 = j := by omega
    rw [if_pos hj, hblock, hbyte, BitVec.add_zero]
    simp only [refilled, Fin.val_zero, Nat.zero_add]
  · have hblock : j / 16 = (j - 16) / 16 + 1 := by omega
    have hbyte : j % 16 = (j - 16) % 16 := by omega
    rw [if_neg hj, hblock, hbyte, ← inc_add]
    rfl

theorem maskedBytes_cons (h : S.off.val < 16) (b : Byte) (p : List Byte) (u : Nat) :
    maskedBytes v key S (b :: p) (u + 1) = (b ^^^ keyByte S) :: maskedBytes v key (useByte S) p u := by
  simp [maskedBytes, List.range_succ_eq_map, Function.comp_def, keyByteAhead_zero h, keyByteAhead_succ h]

/-- Masking a mask with the same key stream gives the payload back (R153). -/
theorem maskedBytes_maskedBytes {p : List Byte} {u w : Nat} (huw : u ≤ w) (hw : w ≤ p.length) :
    maskedBytes v key S (maskedBytes v key S p w) u = p.take u := by
  apply List.ext_getElem (by rw [length_maskedBytes, List.length_take_of_le (huw.trans hw)])
  intro j hj hj'
  have hju : j < u := by rwa [length_maskedBytes] at hj
  simp [maskedBytes, show j < w by omega, show j < p.length by omega]

/-- Only the first `u` bytes of a payload are masked. -/
theorem maskedBytes_take {u w : Nat} (h : u ≤ w) (p : List Byte) :
    maskedBytes v key S (p.take w) u = maskedBytes v key S p u := by
  refine List.map_congr_left fun j hj => ?_
  have hj : j < w := (List.mem_range.mp hj).trans_le h
  rw [List.getD_eq_getElem?_getD, List.getD_eq_getElem?_getD, List.getElem?_take_of_lt hj]

theorem xorPath_out (s : State) (p : List Byte) (n : Nat) (S : Session) :
    (xorPath (askPrimitive Config.primitive s) p n S).out =
      maskedBytes s.var s.key S p (xorPath (askPrimitive Config.primitive s) p n S).out.length := by
  refine xorPath_induction (Q := fun p _ S r => r.out = maskedBytes s.var s.key S p r.out.length)
    ?nil ?failure ?residual ?block p n S
  case nil => exact fun _ _ => rfl
  case failure => exact fun _ _ _ _ _ _ => rfl
  case residual =>
    intro b p n S r hoff ih
    rw [emit_out, List.length_cons, maskedBytes_cons hoff, ← ih]
  case block =>
    intro b p n S r ho _ ih
    refine ih.trans (List.map_congr_left fun j _ => ?_)
    rw [keyByteAhead_refilled ho]

end

/-- Settles O27: the counts by `xorPath_makesBlocks`, the output by `xorPath_out`. -/
theorem processClosedForm : Obligations.ProcessClosedForm := by
  intro d len s hv hf hl S nb m u
  have hlen : (s.din.take len).length = len := List.length_take_of_le hl
  have hrun : MakesBlocks s S s.drawn len nb m (runOf d (s.din.take len) s) := by
    have := xorPath_makesBlocks s (s.din.take len) s.drawn S
    rwa [hlen] at this
  have hu : (runOf d (s.din.take len) s).out.length = u := hrun.length
  have hle : u ≤ len := hu ▸ (xorPath_length_le ..).trans_eq hlen
  have hout : (runOf d (s.din.take len) s).out = maskedBytes s.var s.key S s.din u := by
    rw [← maskedBytes_take hle, ← hu]
    exact xorPath_out ..
  refine ⟨_, hrun.ctr, hrun.ks, hu ▸ hrun.off_eq, ?_⟩
  rw [exec_instr_served d hv hf hl, served, hrun.failed, hrun.drawn, hu, hout]
  simp only [decide_eq_true_eq, ne_eq, ite_not]
  rfl

/-! ### Payloads cut short and cut in two (R152, R158) -/

/-- The first `m` bytes a run puts out are those of the run on the payload's first `m` bytes. -/
theorem take_xorPath_out (ask : Nat → Block → Option Block) (p : List Byte) (n : Nat) (S : Session) (m : Nat) :
    (xorPath ask p n S).out.take m = (xorPath ask (p.take m) n S).out := by
  rcases Nat.le_total p.length m with hm | hm
  · rw [List.take_of_length_le hm]
    exact List.take_of_length_le ((xorPath_length_le ..).trans hm)
  · have hle := xorPath_length_le ask (p.take m) n S
    have hjoin := xorPath_append ask (p.take m) (p.drop m) n S
    rw [List.take_append_drop] at hjoin
    rw [List.length_take_of_le hm] at hle
    rw [hjoin, joinRuns]
    cases hfail : (xorPath ask (p.take m) n S).failed with
    | true => exact List.take_of_length_le hle
    | false => exact List.take_left' ((xorPath_length_of_ok hfail).trans (List.length_take_of_le hm))

/-- Settles O34: outputs agree where the payloads do, by `take_xorPath_out`; a refused command puts out nothing. -/
theorem outputPrefixDependsOnPayloadPrefix : Obligations.OutputPrefixDependsOnPayloadPrefix := by
  intro d s p q m hpq
  rcases refused_or_serves s with hrefused | ⟨hv, hf⟩
  · refine ⟨_, _, [], [], exec_instr_raises d (by exact hrefused) (le_refl _),
      exec_instr_raises d (by exact hrefused) (le_refl _), ?_, ?_, rfl⟩
    · exact (List.append_nil _).symm
    · exact (List.append_nil _).symm
  · obtain ⟨t, ht, hrun⟩ := exec_payload_wroteRun d hv hf p
    obtain ⟨t', ht', hrun'⟩ := exec_payload_wroteRun d hv hf q
    refine ⟨t, t', _, _, ht, ht', hrun.dout, hrun'.dout, ?_⟩
    rw [take_xorPath_out, take_xorPath_out, hpq]

theorem sameButRsp_iff (s t : State) : SameButRsp s t ↔
    SameRegisters s t ∧ s.cmd = t.cmd ∧ s.din = t.din ∧ s.dout = t.dout ∧ s.stream = t.stream ∧
      s.drawn = t.drawn := by
  simp [SameButRsp, SameRegisters, and_assoc]

/-- A run written back leaves one state, whatever the payload still to pop and the response. -/
theorem WroteRun.sameButRsp {d : Dir} {r : XorRun} {s t t' : State} (h : WroteRun d r s t) (h' : WroteRun d r s t')
    (hcmd : t.cmd = t'.cmd) (hdin : t.din = t'.din) : SameButRsp t t' := by
  have hbank : ∀ d', t.session d' = t'.session d' := by
    intro d'
    by_cases hd : d' = d
    · rw [hd, h.bank, h'.bank]
    · rw [h.other d' hd, h'.other d' hd]
  have hregisters : SameRegisters t t' :=
    ⟨h.hv.trans h'.hv.symm, h.var.trans h'.var.symm, h.flt.trans h'.flt.symm, h.key.trans h'.key.symm, hbank .enc,
      hbank .dec⟩
  exact (sameButRsp_iff t t').mpr ⟨hregisters, hcmd, hdin, h.dout.trans h'.dout.symm, h.stream.trans h'.stream.symm,
    h.drawn.trans h'.drawn.symm⟩

/-- A command after a run written back carries that run on over its own payload, or is refused if the run failed. -/
theorem WroteRun.exec_instr {d : Dir} {p : List Byte} {j : Nat} {s u t : State} (hv : s.hv = true) (hf : s.flt = false)
    (h : WroteRun d (runOf d p s) s u) (ht : exec (d.instr j) u = .next t) :
    WroteRun d (runOf d (p ++ u.din.take j) s) s t := by
  have hl := length_le_of_exec_instr ht
  cases hfail : (runOf d p s).failed with
  | true =>
    have hflt : u.flt = true := by rw [h.flt, hfail, Bool.or_true]
    cases (exec_instr_raises d (.inl hflt) hl).symm.trans ht
    rw [runOf, xorPath_append, joinRuns, if_pos hfail]
    exact ⟨h.hv, h.var, h.key, h.stream, h.flt, h.drawn, h.dout, h.bank, h.other⟩
  | false =>
    have hflt : u.flt = false := by rw [h.flt, hf, hfail, Bool.or_false]
    obtain ⟨_, hexec, hrest⟩ := exec_instr_wroteRun d (h.hv.trans hv) hflt hl
    cases hexec.symm.trans ht
    rw [runOf, askPrimitive_congr _ h.stream h.var h.key] at hrest
    exact h.trans hfail hrest

/-- A payload served by two commands one after the other is served as by one command (R152). -/
theorem exec_instr_add {d : Dir} {k j : Nat} {s u t : State} (hu : exec (d.instr k) s = .next u)
    (ht : exec (d.instr j) u = .next t) : ∃ t', exec (d.instr (k + j)) s = .next t' ∧ SameButRsp t t' := by
  have hk := length_le_of_exec_instr hu
  have hj := length_le_of_exec_instr ht
  obtain ⟨hucmd, hudin⟩ := exec_instr_cmd_din hu
  obtain ⟨htcmd, htdin⟩ := exec_instr_cmd_din ht
  have hl : k + j ≤ s.din.length := by
    rw [hudin, List.length_drop] at hj
    omega
  obtain ⟨t', ht'⟩ := exec_next (d.instr (k + j)) (by rwa [decl_instr])
  obtain ⟨htcmd', htdin'⟩ := exec_instr_cmd_din ht'
  have hcmd : t.cmd = t'.cmd := by rw [htcmd, hucmd, htcmd']
  have hdin : t.din = t'.din := by rw [htdin, hudin, htdin', List.drop_drop]
  refine ⟨t', ht', ?_⟩
  rcases refused_or_serves s with hrefused | ⟨hv, hf⟩
  · cases (exec_instr_raises d hrefused hk).symm.trans hu
    cases (exec_instr_raises d (by exact hrefused) hj).symm.trans ht
    cases (exec_instr_raises d hrefused hl).symm.trans ht'
    exact (sameButRsp_iff _ _).mpr ⟨SameRegisters.refl s, rfl, hdin, rfl, rfl, rfl⟩
  · obtain ⟨_, hexec, hfirst⟩ := exec_instr_wroteRun d hv hf hk
    cases hexec.symm.trans hu
    obtain ⟨_, hexec', hwhole⟩ := exec_instr_wroteRun d hv hf hl
    cases hexec'.symm.trans ht'
    rw [List.take_add, ← hudin] at hwhole
    exact WroteRun.sameButRsp (WroteRun.exec_instr hv hf hfirst ht) hwhole hcmd hdin

theorem exec_instr_zero (d : Dir) (s : State) : ∃ t, exec (d.instr 0) s = .next t ∧ SameButRsp s t := by
  rcases refused_or_serves s with hrefused | ⟨hv, hf⟩
  · exact ⟨_, exec_instr_raises d hrefused (Nat.zero_le _), rfl⟩
  · exact ⟨_, zeroLengthIsNoOp d s hf, rfl⟩

theorem execAll_cons {i : Instr} {s u : State} (h : exec i s = .next u) (is : List Instr) :
    execAll (i :: is) s = execAll is u := by
  simp only [execAll, h]

/-- Settles O32, by induction on the commands: the first and the one that stands for the rest are one. -/
theorem chunkInvariance : Obligations.ChunkInvariance := by
  intro d chunks s hl
  induction chunks generalizing s with
  | nil =>
    obtain ⟨t', ht', hsame⟩ := exec_instr_zero d s
    exact ⟨s, t', rfl, ht', hsame⟩
  | cons k ks ih =>
    rw [List.sum_cons] at hl ⊢
    obtain ⟨u, hu⟩ := exec_next (s := s) (d.instr k) (by rw [decl_instr]; omega)
    obtain ⟨-, hudin⟩ := exec_instr_cmd_din hu
    obtain ⟨t, w, ht, hw, hsame⟩ := ih u (by rw [hudin, List.length_drop]; omega)
    obtain ⟨t', ht', hsame'⟩ := exec_instr_add hu hw
    exact ⟨t, t', (execAll_cons hu _).trans ht, ht', hsame.trans hsame'⟩

/-! ### Decryption undoes encryption (R142, R153) -/

theorem session_ext {S S' : Session} (hctr : S.ctr = S'.ctr) (hks : S.ks = S'.ks) (hoff : S.off.val = S'.off.val) :
    S = S' := by
  cases S
  cases S'
  cases hctr
  cases hks
  cases Fin.ext hoff
  rfl

/-- Two runs of one length from one session that make all their blocks leave one session, whatever their payloads and
invocation numbers. -/
theorem MakesBlocks.session_eq {s : State} {S : Session} {n n' len nb m m' : Nat} {r r' : XorRun}
    (h : MakesBlocks s S n len nb m r) (h' : MakesBlocks s S n' len nb m' r') (hr : r.failed = false)
    (hr' : r'.failed = false) : r.session = r'.session := by
  obtain rfl : m = nb := by simpa [h.failed] using hr
  obtain rfl : m' = m := by simpa [h'.failed] using hr'
  have hlen : r.out.length = r'.out.length := h.length.trans h'.length.symm
  have hoff := h.off
  have hoff' := h'.off
  exact session_ext (h.ctr.trans h'.ctr.symm) (h.ks.trans h'.ks.symm) (by omega)

/-- A run on what a run from the same session put out gives the payload back, as far as it gets. -/
theorem xorPath_xorPath_out {s : State} {p c : List Byte} {n : Nat} {S : Session}
    (hok : (xorPath (askPrimitive Config.primitive s) p n S).failed = false)
    (hc : (xorPath (askPrimitive Config.primitive s) p n S).out = c) (n' : Nat) :
    (xorPath (askPrimitive Config.primitive s) c n' S).out <+: p ∧
      ((xorPath (askPrimitive Config.primitive s) c n' S).failed = false →
        (xorPath (askPrimitive Config.primitive s) c n' S).out = p ∧
        (xorPath (askPrimitive Config.primitive s) c n' S).session =
          (xorPath (askPrimitive Config.primitive s) p n S).session) := by
  have hlen : c.length = p.length := hc ▸ xorPath_length_of_ok hok
  have hle := xorPath_length_le (askPrimitive Config.primitive s) c n' S
  have hblocks := xorPath_makesBlocks s c n' S
  have hmask := xorPath_out s p n S
  rw [hlen] at hle hblocks
  rw [hc, hlen] at hmask
  have hback : ∀ u ≤ p.length, maskedBytes s.var s.key S c u = p.take u :=
    fun u hu => by rw [hmask, maskedBytes_maskedBytes hu (le_refl _)]
  have hout := (xorPath_out s c n' S).trans (hback _ hle)
  refine ⟨hout ▸ List.take_prefix .., fun hok' => ⟨?_, hblocks.session_eq (xorPath_makesBlocks s p n S) hok' hok⟩⟩
  rw [hout, xorPath_length_of_ok hok', hlen, List.take_length]

/-- Settles O33: a DEC after an ENC that failed is refused; otherwise it runs from the same session on the ENC's
output, as in `xorPath_xorPath_out`. -/
theorem decryptInvertsEncrypt : Obligations.DecryptInvertsEncrypt := by
  intro n s hv hf hmeet hl
  obtain ⟨t, ht, henc⟩ := exec_instr_wroteRun .enc hv hf hl
  refine ⟨t, _, ht, henc.dout, ?_⟩
  cases hfail : (runOf .enc (s.din.take n) s).failed with
  | true =>
    have hflt : t.flt = true := by rw [henc.flt, hfail, Bool.or_true]
    refine ⟨_, [], exec_instr_raises .dec (by exact .inl hflt) (le_refl _), (List.append_nil _).symm,
      List.nil_prefix, fun hclear => ?_⟩
    cases hflt.symm.trans hclear
  | false =>
    have hflt : t.flt = false := by rw [henc.flt, hf, hfail, Bool.or_false]
    have hsd : t.sd = s.se := (henc.other .dec (by decide)).trans hmeet.symm
    obtain ⟨t', ht', hdec⟩ := exec_payload_wroteRun .dec (henc.hv.trans hv) hflt (runOf .enc (s.din.take n) s).out
    rw [runOf, session_dec, hsd, askPrimitive_congr _ henc.stream henc.var henc.key] at hdec
    obtain ⟨hprefix, hall⟩ := xorPath_xorPath_out hfail rfl t.drawn
    refine ⟨t', _, ht', hdec.dout, hprefix, fun hclear => ?_⟩
    rw [hdec.flt, hflt, Bool.false_or] at hclear
    obtain ⟨hout, hsession⟩ := hall hclear
    have hse : t'.se = t.se := hdec.other .enc (by decide)
    have hbank : t'.sd = t.se := (hdec.bank.trans hsession).trans henc.bank.symm
    exact ⟨hout, hbank.trans hse.symm⟩

/-! ### A payload of zeros (R156) -/

/-- A run on any payload is the run on as many zeros, but for the payload XORed in. -/
theorem xorPath_zeros (ask : Nat → Block → Option Block) (p : List Byte) (n : Nat) (S : Session) :
    xorPath ask p n S =
      { xorPath ask (zeros p.length) n S with
        out := List.zipWith (fun b x => b ^^^ x) p (xorPath ask (zeros p.length) n S).out } := by
  induction p generalizing n S with
  | nil => rfl
  | cons b p ih =>
    have hzeros : zeros (b :: p).length = 0 :: zeros p.length := rfl
    rw [hzeros]
    cases hr : refill ask n S with
    | none => rw [xorPath_cons_fail hr, xorPath_cons_fail hr]; rfl
    | some a =>
      obtain ⟨S', m⟩ := a
      rw [xorPath_cons_some hr, xorPath_cons_some hr, ih]
      simp [emit]

/-- The mask of a payload of zeros is the key stream ahead. -/
theorem maskedBytes_zeros {v : Variant} {key : KeyReg} {S : Session} {u len : Nat} (h : u ≤ len) :
    maskedBytes v key S (zeros len) u = (List.range u).map (keyByteAhead v key S) := by
  refine List.map_congr_left fun j hj => ?_
  have hj : j < len := (List.mem_range.mp hj).trans_le h
  simp [hj]

/-- Settles O36: the zeros' run puts out the key stream by `xorPath_out`, and `xorPath_zeros` says what another payload
changes. -/
theorem zeroPayloadReturnsKeyStream : Obligations.ZeroPayloadReturnsKeyStream := by
  intro d s p hv hf
  have hzeros : (zeros p.length).length = p.length := List.length_replicate
  have hserved := exec_payload_served d hv hf (zeros p.length)
  have hrun : runOf d p s = _ := xorPath_zeros (askPrimitive Config.primitive s) p s.drawn (s.session d)
  have hout := xorPath_out s (zeros p.length) s.drawn (s.session d)
  have hle := xorPath_length_le (askPrimitive Config.primitive s) (zeros p.length) s.drawn (s.session d)
  rw [hzeros] at hserved hle
  refine ⟨_, _, hserved, rfl, hout.trans (maskedBytes_zeros hle),
    fun hok => (xorPath_length_of_ok hok).trans hzeros, ?_⟩
  rw [exec_payload_served d hv hf p, hrun, served, served, List.length_zipWith, Nat.min_eq_right hle,
    List.drop_length, List.drop_of_length_le hzeros.le]
  cases d <;> rfl

end Sys2Proof.Proofs.StreamingSession
end

section
/-!
PROOFS of the statements of spec/44_handle.md: STATUS and the values of STAT (R176), what a CREATE can do (R170), and
the handle a successful CREATE leaves (R171, R173, R175).
-/

namespace Sys2Proof.Proofs.Handle

open Sys2Proof Sys2Proof.Machine Sys2Proof.Laws Sys2Proof.Proofs.Registers Sys2Proof.Proofs.ModeSelector
  Sys2Proof.Proofs.CounterBlock

/-! ### STATUS and the values of STAT (R46, R176) -/

/-- Settles O13: STATUS only completes, and the OK response is STAT alone. -/
theorem statusAnswersStat : Obligations.StatusAnswersStat := by
  intro s
  rw [exec_status, ← respWord_ok]
  rfl

theorem stat_noHandle {s : State} (hf : s.flt = false) (hvar : s.var = .v128) (hv : s.hv = false) :
    stat s = 0x00 :=
  (stat_congr hf hvar hv).trans stat_reset

theorem stat_handle {s : State} (hf : s.flt = false) (hv : s.hv = true) :
    stat s = if s.var = .v128 then 0x01 else 0x03 := by
  rw [stat, hf, hv]
  cases s.var <;> rfl

theorem stat_faulted {s : State} (hf : s.flt = true) (hv : s.hv = true) :
    stat s = if s.var = .v128 then 0x05 else 0x07 := by
  rw [stat, hf, hv]
  cases s.var <;> rfl

/-- Settles O14: without a handle the invariant leaves one value, with one FLT and VAR choose among four. -/
theorem statusValuesUnderInvariant : Obligations.StatusValuesUnderInvariant := by
  intro s hs
  cases hv : s.hv with
  | false =>
    have hf : s.flt = false := Bool.eq_false_of_not_eq_true fun hf => by simp [hs.faultHandle hf] at hv
    obtain ⟨hvar, -⟩ := hs.noHandle hv
    exact .inl (stat_noHandle hf hvar hv)
  | true =>
    cases hf : s.flt with
    | false => rw [stat_handle hf hv]; split <;> decide
    | true => rw [stat_faulted hf hv]; split <;> decide

/-! ### What a CREATE can do (R170, R172) -/

/-- After its payload is popped, a CREATE raises on the state it finds or completes a new handle. -/
theorem checkedCreateBody_cases (klen ivlen : Nat) (p : List Byte) (s : State) :
    (∃ c arg acc, unlessFaulted (createBody klen ivlen) p s = raise c arg acc s) ∨
    (∃ v key iv, unlessFaulted (createBody klen ivlen) p s = complete (construct v key iv s)) := by
  cases hf : s.flt with
  | true => exact .inl ⟨_, _, _, unlessFaulted_faulted hf ..⟩
  | false =>
    rw [unlessFaulted_clear hf]
    rcases createBody_cases klen ivlen p s with ⟨-, he⟩ | ⟨-, -, -, he⟩ | ⟨v, -, -, he⟩
    · exact .inl ⟨_, _, _, he⟩
    · exact .inl ⟨_, _, _, he⟩
    · exact .inr ⟨v, _, _, he⟩

/-- Settles O21: where CREATE raises it keeps the registers, and where it writes them its response is OK. -/
theorem failedCreateKeepsRegisters : Obligations.FailedCreateKeepsRegisters := by
  intro s klen ivlen hl
  rw [exec_create hl]
  rcases checkedCreateBody_cases klen ivlen (s.din.take (klen + ivlen)) { s with din := s.din.drop (klen + ivlen) } with
    ⟨c, arg, acc, he⟩ | ⟨v, key, iv, he⟩ <;> rw [he]
  · exact ⟨_, _, rfl, rfl, rfl, rfl, rfl, rfl, fun _ => SameRegisters.refl s⟩
  · exact ⟨_, _, rfl, rfl, rfl, rfl, rfl, rfl, fun hcode => absurd (respWord_code ..) hcode⟩

/-! ### The handle of a successful CREATE (R171, R173, R175) -/

/-- The OK response of a successful CREATE: HV is set, and VAR is that of the key's length. -/
theorem respWord_construct {klen : Nat} {v : Variant} {s : State} (hm : selectMode klen = some v)
    (hf : s.flt = false) (key iv : List Byte) :
    respWord .ok 0 0 (construct v key iv s) = if klen = 16 then 0x00000001 else 0x00000003 := by
  rw [respWord_ok, stat_handle (by exact hf) rfl, construct_var]
  rcases selectMode_eq_some_iff.mp hm with ⟨rfl, rfl⟩ | ⟨rfl, rfl⟩ <;> rfl

/-- Settles O18: KEY is the key's register, and both banks are the IV's seed. -/
theorem createConstructsHandle : Obligations.CreateConstructsHandle := by
  intro s klen v hf hk hl
  have hm : selectMode klen = some v := selectMode_eq_some_iff.mpr hk
  have hkey : (s.din.take klen).length = klen := List.length_take_of_le (by omega)
  refine ⟨keyRegister (s.din.take klen), seedSession ((s.din.drop klen).take 16), ?_, rfl,
    Vector.toList_replicate, rfl, ?_⟩
  · rw [keyRegister_toList (by omega), hkey]
  · rw [exec_create_accepted hf hm hl, ← respWord_construct hm hf (s.din.take klen) ((s.din.drop klen).take 16)]
    rfl

theorem exists_selectMode {klen : Nat} (h : klen = 16 ∨ klen = 32) : ∃ v, selectMode klen = some v := by
  rcases h with rfl | rfl
  · exact ⟨_, selectMode_sixteen⟩
  · exact ⟨_, selectMode_thirtyTwo⟩

/-- Settles O22: `construct` writes every register but FLT, from the payload's key and IV alone. -/
theorem createForgetsEarlierHandle : Obligations.CreateForgetsEarlierHandle := by
  intro s s' klen hf hf' hk hl hp
  obtain ⟨v, hm⟩ := exists_selectMode hk
  have hl' : klen + 16 ≤ s'.din.length := by
    have hlen := congrArg List.length hp
    rw [List.length_take_of_le hl, List.length_take] at hlen
    omega
  have hkey : s.din.take klen = s'.din.take klen := by
    simpa [List.take_take] using congrArg (List.take klen) hp
  have hiv : (s.din.drop klen).take 16 = (s'.din.drop klen).take 16 := by
    simpa [List.drop_take] using congrArg (List.drop klen) hp
  exact ⟨_, _, exec_create_accepted hf hm hl, exec_create_accepted hf' hm hl', rfl, rfl, hf.trans hf'.symm,
    congrArg keyRegister hkey, congrArg seedSession hiv, congrArg seedSession hiv⟩

end Sys2Proof.Proofs.Handle
end

section
/-!
PROOFS of the statements of spec/60_exceptions.md: every step goes on (R190, R199); the FAULTED check (R197); the codes
each command can answer (R191) and the errors of CREATE (R192, R193); ENC and DEC without a handle (R194); and a run
that fails as a shorter one that does not (R196).
-/

namespace Sys2Proof.Proofs.Exceptions

open Sys2Proof Sys2Proof.Machine Sys2Proof.Laws Sys2Proof.Proofs.Registers Sys2Proof.Proofs.ModeSelector
  Sys2Proof.Proofs.KeyStream Sys2Proof.Proofs.StreamingSession Sys2Proof.Proofs.Handle

/-! ### Every step goes on (R190, R199) -/

/-- Settles O8: a step waits, answers an illegal word, or runs a command whose payload is in DIN. -/
theorem everyStepGoesOn : Obligations.EveryStepGoesOn := by
  intro s
  rcases step_cases s with ⟨-, hstep⟩ | ⟨_, _, _, -, -, hstep⟩ | ⟨_, _, i, -, -, hl, hstep⟩
  · exact ⟨_, hstep⟩
  · exact ⟨_, hstep⟩
  · rw [hstep]
    exact exec_next i hl

/-! ### The FAULTED check (R100, R197) -/

/-- What a command does after its payload is popped and the FAULTED check made. -/
def bodyOf : Instr → List Byte → State → State
  | .create klen ivlen => createBody klen ivlen
  | .enc _ => process Config.primitive .enc
  | .dec _ => process Config.primitive .dec
  | .incr => incrBody
  | .status => fun _ => complete

theorem exec_eq_checkedBody {i : Instr} (hi : i ≠ .status) (s : State) :
    exec i s = popPayload i.decl s (unlessFaulted (bodyOf i)) := by
  cases i with
  | status => exact absurd rfl hi
  | _ => rfl

theorem exec_faulted {i : Instr} {s : State} (hf : s.flt = true) (hi : i ≠ .status) (hl : i.decl ≤ s.din.length) :
    exec i s = .next (raise .faulted 0 0 { s with din := s.din.drop i.decl }) := by
  rw [exec_eq_checkedBody hi, popPayload_next hl, unlessFaulted_faulted (by exact hf)]

/-- Nothing a step can do to the registers clears FLT (R33). -/
theorem flt_of_registerEffect {s t : State} (h : RegisterEffect s t) (hf : s.flt = true) : t.flt = true := by
  rcases h with ⟨-, -, hsame, -⟩ | ⟨-, -, -, hclear, -⟩ | ⟨-, -, -, hclear, -⟩
  · exact hsame ▸ hf
  · cases hf.symm.trans hclear
  · cases hf.symm.trans hclear

/-- Settles O15: the check by `exec_faulted`, the other steps by what they can do to the registers. -/
theorem faultedEngineRefusesCommands : Obligations.FaultedEngineRefusesCommands :=
  ⟨fun _ _ => exec_faulted, fun _ _ hf h => flt_of_registerEffect (step_effect h) hf, fun _ => rfl⟩

/-! ### The codes a command can answer (R191) -/

/-- The codes of ENC and DEC (R191). -/
def streamingCodes : List Code := [.ok, .noHandle, .primitiveFailure, .faulted]

/-- The codes of each legal command (R191). -/
def codesOf : Instr → List Code
  | .create _ _ => [.ok, .invalidKeyLength, .invalidIvLength, .faulted]
  | .enc _ => streamingCodes
  | .dec _ => streamingCodes
  | .incr => [.ok, .faulted]
  | .status => [.ok]

theorem faulted_mem_codesOf {i : Instr} (hi : i ≠ .status) : .faulted ∈ codesOf i := by
  cases i with
  | status => exact absurd rfl hi
  | _ => simp [codesOf, streamingCodes]

/-- From `s` to `t` one response was pushed, its CODE one of `cs`. -/
def AnswersOneOf (cs : List Code) (s t : State) : Prop :=
  ∃ c ∈ cs, ∃ r, t.rsp = s.rsp ++ [r] ∧ r.extractLsb' 24 8 = codeBits c

section
variable {cs : List Code} {s u : State}

theorem respond_answersOneOf {c : Code} (hc : c ∈ cs) (hrsp : u.rsp = s.rsp) (arg acc : Byte) :
    AnswersOneOf cs s (respond c arg acc u) :=
  ⟨c, hc, _, by rw [respond_rsp, hrsp], respWord_code ..⟩

theorem failPrimitive_answersOneOf (hc : .primitiveFailure ∈ cs) (hrsp : u.rsp = s.rsp) (n : Nat) :
    AnswersOneOf cs s (failPrimitive n u) :=
  ⟨_, hc, _, by rw [failPrimitive_rsp, hrsp], failureWord_code n⟩

theorem unlessFaulted_answersOneOf {body : List Byte → State → State} {p : List Byte} (hfaulted : .faulted ∈ cs)
    (hbody : AnswersOneOf cs s (body p s)) : AnswersOneOf cs s (unlessFaulted body p s) := by
  cases hf : s.flt with
  | true =>
    rw [unlessFaulted_faulted hf]
    exact respond_answersOneOf hfaulted rfl ..
  | false => rwa [unlessFaulted_clear hf]

theorem process_answersOneOf (P : Primitive) (d : Dir) (p : List Byte) (s : State) :
    AnswersOneOf streamingCodes s (process P d p s) := by
  cases hv : s.hv with
  | false =>
    rw [process_noHandle P d p hv]
    exact respond_answersOneOf (by decide) rfl ..
  | true =>
    rw [process_handle P d p hv]
    split
    · exact failPrimitive_answersOneOf (by decide) (commitRun_rsp ..) _
    · exact respond_answersOneOf (by decide) (commitRun_rsp ..) ..

theorem createBody_answersOneOf (klen ivlen : Nat) (p : List Byte) (s : State) :
    AnswersOneOf (codesOf (.create klen ivlen)) s (createBody klen ivlen p s) := by
  rcases createBody_cases klen ivlen p s with ⟨-, he⟩ | ⟨-, -, -, he⟩ | ⟨v, -, -, he⟩ <;> rw [he]
  · exact respond_answersOneOf (by simp [codesOf]) rfl ..
  · exact respond_answersOneOf (by simp [codesOf]) rfl ..
  · exact respond_answersOneOf (by simp [codesOf]) rfl ..

theorem bodyOf_answersOneOf (i : Instr) (p : List Byte) (s : State) : AnswersOneOf (codesOf i) s (bodyOf i p s) := by
  cases i with
  | create klen ivlen => exact createBody_answersOneOf klen ivlen p s
  | enc len => exact process_answersOneOf _ .enc p s
  | dec len => exact process_answersOneOf _ .dec p s
  | incr => exact respond_answersOneOf (by decide) rfl ..
  | status => exact respond_answersOneOf (by decide) rfl ..

end

theorem popPayload_eq_next {n : Nat} {s t : State} {body : List Byte → State → State}
    (h : popPayload n s body = .next t) : t = body (s.din.take n) { s with din := s.din.drop n } := by
  by_cases hl : n ≤ s.din.length
  · exact (Host.Outcome.next.inj ((popPayload_next hl body).symm.trans h)).symm
  · cases (popPayload_short (Nat.not_le.mp hl) body).symm.trans h

/-- A legal command answers one of the codes that the outcome table gives it, and no other (R191, R199). -/
theorem exec_answersOneOf {i : Instr} {s t : State} (h : exec i s = .next t) : AnswersOneOf (codesOf i) s t := by
  by_cases hi : i = .status
  · subst hi
    cases h
    exact bodyOf_answersOneOf .status [] s
  · rw [exec_eq_checkedBody hi] at h
    cases popPayload_eq_next h
    exact unlessFaulted_answersOneOf (faulted_mem_codesOf hi) (bodyOf_answersOneOf i _ _)

theorem AnswersOneOf.code_mem {cs : List Code} {s t : State} {r : Word} {c : Code} (h : AnswersOneOf cs s t)
    (hrsp : t.rsp = s.rsp ++ [r]) (hr : r.extractLsb' 24 8 = codeBits c) : c ∈ cs := by
  obtain ⟨c', hc', r', hrsp', hr'⟩ := h
  cases List.append_cancel_left (hrsp'.symm.trans hrsp)
  rwa [codeBits_inj (hr.symm.trans hr')]

theorem create_of_invalidKeyLength_mem {i : Instr} (h : .invalidKeyLength ∈ codesOf i) :
    ∃ klen ivlen, i = .create klen ivlen := by
  cases i with
  | create klen ivlen => exact ⟨klen, ivlen, rfl⟩
  | _ => simp [codesOf, streamingCodes] at h

/-! ### The errors of CREATE (R174, R192, R193) -/

/-- A CREATE whose body raises an error pops its payload, pushes the response and changes nothing else (R172). -/
theorem exec_create_raises {klen ivlen : Nat} {s : State} {c : Code} {arg acc : Byte} (hf : s.flt = false)
    (hl : klen + ivlen ≤ s.din.length) (hbody : ∀ p u, createBody klen ivlen p u = raise c arg acc u) :
    exec (.create klen ivlen) s = .next { s with
      din := s.din.drop (klen + ivlen), rsp := s.rsp ++ [respWord c arg acc s] } := by
  rw [exec_create hl, unlessFaulted_clear (by exact hf), hbody]
  rfl

theorem createBody_invalidKeyLength {klen : Nat} (hm : selectMode klen = none) (ivlen : Nat) (p : List Byte)
    (s : State) : createBody klen ivlen p s = raise .invalidKeyLength (BitVec.ofNat 8 klen) 0x03 s := by
  rw [createBody, hm]

theorem createBody_invalidIvLength {klen ivlen : Nat} {v : Variant} (hm : selectMode klen = some v) (hiv : ivlen ≠ 16)
    (p : List Byte) (s : State) :
    createBody klen ivlen p s = raise .invalidIvLength (BitVec.ofNat 8 ivlen) 0x01 s := by
  simp only [createBody, hm, if_neg hiv]

/-- Settles O19: the body checks the key length first, and of the codes of R191 only CREATE's hold 0x01. -/
theorem createRejectsKeyLength : Obligations.CreateRejectsKeyLength := by
  refine ⟨fun s klen ivlen hf h16 h32 hl => ?_, fun i s t r hexec hrsp hr => ?_⟩
  · rw [exec_create_raises hf hl (createBody_invalidKeyLength (selectMode_eq_none h16 h32) ivlen)]
    rfl
  · exact create_of_invalidKeyLength_mem ((exec_answersOneOf hexec).code_mem hrsp hr)

/-- Settles O20: with a key length accepted, the body checks the IV length. -/
theorem createRejectsIvLength : Obligations.CreateRejectsIvLength := by
  intro s klen ivlen hf hk hiv hl
  obtain ⟨v, hm⟩ := exists_selectMode hk
  rw [exec_create_raises hf hl (createBody_invalidIvLength hm hiv)]
  rfl

/-! ### ENC and DEC without a handle (R194) -/

/-- Settles O24, by what a refused ENC or DEC raises where FLT is clear. -/
theorem processWithoutHandle : Obligations.ProcessWithoutHandle := by
  intro d len s hv hf hl
  rw [exec_instr_raises d (.inr hv) hl, refusal, if_neg (by simp [hf])]
  rfl

/-! ### A run that fails (R147, R196) -/

/-- The run `r` and then an invocation that fails: it counts as drawn and writes nothing (R196 (c)). -/
def thenFails (r : XorRun) : XorRun := { r with drawn := r.drawn + 1, failed := true }

/-- A run that fails is the run on as many bytes as it put out, which does not fail, and then the failing invocation. -/
theorem xorPath_eq_thenFails {ask : Nat → Block → Option Block} {p : List Byte} {n : Nat} {S : Session}
    (hfail : (xorPath ask p n S).failed = true) :
    ∃ r, xorPath ask (p.take (xorPath ask p n S).out.length) n S = r ∧ r.failed = false ∧
      xorPath ask p n S = thenFails r := by
  induction p generalizing n S with
  | nil => cases hfail
  | cons b p ih =>
    cases hr : refill ask n S with
    | none =>
      rw [xorPath_cons_fail hr]
      exact ⟨_, rfl, rfl, rfl⟩
    | some a =>
      obtain ⟨S', m⟩ := a
      rw [xorPath_cons_some hr, emit_failed] at hfail
      obtain ⟨r, hshort, hok, hrun⟩ := ih hfail
      rw [xorPath_cons_some hr, emit_out, List.length_cons, List.take_succ_cons, xorPath_cons_some hr, hshort]
      exact ⟨_, rfl, hok, congrArg (emit _) hrun⟩

/-- Where an ENC or DEC fails, the same command on the bytes it put out does not, and leaves the same output and
session, one invocation earlier. -/
theorem exec_instr_shorter {d : Dir} {len : Nat} {s t : State} {out : List Byte} (hv : s.hv = true)
    (hf : s.flt = false) (hl : len ≤ s.din.length) (hrun : WroteRun d (runOf d (s.din.take len) s) s t)
    (hfail : (runOf d (s.din.take len) s).failed = true) (hout : (runOf d (s.din.take len) s).out = out) :
    ∃ t', exec (d.instr out.length) s = .next t' ∧ t'.flt = false ∧ t'.dout = t.dout ∧
      t'.session d = t.session d ∧ t.drawn = t'.drawn + 1 := by
  have hle : out.length ≤ len := hout ▸ (xorPath_length_le ..).trans_eq (List.length_take_of_le hl)
  obtain ⟨r, hshort, hok, hwhole⟩ := xorPath_eq_thenFails hfail
  rw [hout, List.take_take, Nat.min_eq_left hle] at hshort
  obtain ⟨t', hexec, hrun'⟩ := exec_instr_wroteRun d hv hf (hle.trans hl)
  rw [runOf, hshort] at hrun'
  rw [runOf, hwhole] at hrun
  exact ⟨t', hexec, by rw [hrun'.flt, hf, hok]; rfl, hrun'.dout.trans hrun.dout.symm,
    hrun'.bank.trans hrun.bank.symm, by rw [hrun.drawn, hrun'.drawn]; rfl⟩

/-- Settles O28: the run does not fail, or fails as `exec_instr_shorter` says. -/
theorem failureIsShorterSuccess : Obligations.FailureIsShorterSuccess := by
  intro d len s hv hf hl
  have hlen : (s.din.take len).length = len := List.length_take_of_le hl
  obtain ⟨t, hexec, hrun⟩ := exec_instr_wroteRun d hv hf hl
  obtain ⟨-, hdin⟩ := exec_instr_cmd_din hexec
  have hserved := Host.Outcome.next.inj (hexec.symm.trans (exec_instr_served d hv hf hl))
  have hrsp := congrArg State.rsp hserved
  refine ⟨t, _, hexec, hrun.dout, hdin, hrun.hv, hrun.var, hrun.key, hrun.other, ?_⟩
  cases hfail : (runOf d (s.din.take len) s).failed with
  | false =>
    rw [served, hfail] at hrsp
    exact .inl ⟨by rw [hrun.flt, hf, hfail]; rfl, (xorPath_length_of_ok hfail).trans hlen, hrsp⟩
  | true =>
    have hshort := xorPath_length (askPrimitive Config.primitive s) (s.din.take len) s.drawn (s.session d)
    rw [if_pos hfail, hlen] at hshort
    rw [served, hfail] at hrsp
    exact .inr ⟨by rw [hrun.flt, hfail, Bool.or_true], hshort, hrsp, exec_instr_shorter hv hf hl hrun hfail rfl⟩

end Sys2Proof.Proofs.Exceptions
end

section
/-!
PROOFS of the statements of spec/70_reset_and_hazards.md: reset as an event (R220), the host's actions (R236), and what
holds over the runs of engine and host (R235).
-/

namespace Sys2Proof.Proofs.ResetAndHazards

open Sys2Proof Sys2Proof.Machine Sys2Proof.Laws Sys2Proof.Proofs.Registers Sys2Proof.Proofs.KeyStream
  Sys2Proof.Proofs.Exceptions

/-! ### The invariant over runs (R39, R235, R236) -/

/-- Settles O43: the invariant is one of the registers, so every event keeps it, and so does every run from reset. -/
theorem reachableStatesMeetInvariant : Obligations.ReachableStatesMeetInvariant :=
  ⟨fun _ _ _ _ => inv_registerInvariant.event, fun _ => inv_registerInvariant.reachable⟩

/-! ### HV and FLT (R31, R33, R220) -/

/-- Nothing a step can do to the registers clears HV (R31). -/
theorem hv_of_registerEffect {s t : State} (h : RegisterEffect s t) (hv : s.hv = true) : t.hv = true := by
  rcases h with ⟨hsame, -⟩ | ⟨_, _, _, -, -, -, hconstruct, -⟩ | ⟨d, p, -, -, hrun, -⟩
  · exact hsame ▸ hv
  · exact hconstruct.symm
  · rw [← hrun, afterRun_hv, hv]

/-- An event other than reset does to the registers only what a step can. -/
theorem runEvent_registerEffect {e : Event} {s t : State} {o : List Observation} (he : e ≠ .host .assertReset)
    (h : runEvent e s = some (o, t)) : RegisterEffect s t := by
  cases e with
  | engine => exact step_effect (runEvent_engine h)
  | host a => exact .inl (hostAct_sameRegisters (fun ha => he (congrArg Event.host ha)) h)

/-- Settles O16, by what an event other than reset can do to the registers. -/
theorem onlyResetClearsHandleAndFault : Obligations.OnlyResetClearsHandleAndFault := fun _ _ _ _ he h =>
  have heffect := runEvent_registerEffect he h
  ⟨hv_of_registerEffect heffect, flt_of_registerEffect heffect⟩

/-! ### Reset (R220) -/

/-- Reset keeps nothing of the registers it finds. -/
theorem resetEvent_sameRegisters (s : State) : SameRegisters (resetEvent s) State.reset :=
  SameRegisters.refl State.reset

/-- Settles O46: the registers by `resetEvent_sameRegisters`, and each channel is reset's empty one. -/
theorem resetEventRestoresResetState : Obligations.ResetEventRestoresResetState := fun s =>
  ⟨rfl, resetEvent_sameRegisters s, rfl, rfl, rfl, rfl⟩

/-! ### The host's pops (R47, R236) -/

theorem hostAct_popDout_cons {s : State} {b : Byte} {rest : List Byte} (h : s.dout = b :: rest) :
    hostAct .popDout s = some ([.byte b], { s with dout := rest }) := by
  simp only [hostAct, h]

theorem hostAct_popDout_nil {s : State} (h : s.dout = []) : hostAct .popDout s = none := by
  simp only [hostAct, h]

theorem hostAct_popRsp_cons {s : State} {w : Word} {rest : List Word} (h : s.rsp = w :: rest) :
    hostAct .popRsp s = some ([.word w], { s with rsp := rest }) := by
  simp only [hostAct, h]

theorem hostAct_popRsp_nil {s : State} (h : s.rsp = []) : hostAct .popRsp s = none := by
  simp only [hostAct, h]

/-- Settles O47: a push appends by definition, and a pop looks whether its channel is empty. -/
theorem hostActionsReachChannelsOnly : Obligations.HostActionsReachChannelsOnly := fun _ =>
  ⟨fun _ => rfl, fun _ => rfl, fun _ _ => hostAct_popDout_cons, fun _ _ => hostAct_popRsp_cons,
    hostAct_popDout_nil, hostAct_popRsp_nil⟩

end Sys2Proof.Proofs.ResetAndHazards
end
